-- ==== Sys2Proof/Word.lean ====
section
/-! DEFINITION. The two widths of BSF: the 8-bit byte (spec/20_memory.md R31) and the 16-bit checksum
value (spec/00_scope.md R7). Lengths, the cursor and the parameters are natural numbers (R9), so they are
`Nat`. -/

namespace Sys2Proof

/-- The unit of every space of BSF: an unsigned byte (R31). -/
abbrev Byte := BitVec 8

/-- A 16-bit value: the checksum and its running sum (R7, R100). -/
abbrev Half := BitVec 16

end Sys2Proof
end

