-- ==== Sys2Proof/Config.lean ====
section
/-! DEFINITION. The constants of BSF and the configuration a power-on samples from `CFG`.
CAP and LEN_BASE are fields of State (they are sampled at every RESET); what stands here is the pair
`State.reset` uses. -/

namespace Sys2Proof.Config

/-- The packet delimiter (spec/00_scope.md R5). -/
def delim : Byte := 0xC0

/-- The escape byte (R5). -/
def esc : Byte := 0xDB

/-- The substitute that follows `esc` for a data byte equal to `delim` (R5). -/
def escDelim : Byte := 0xDC

/-- The substitute that follows `esc` for a data byte equal to `esc` (R5). -/
def escEsc : Byte := 0xDD

/-- `HDR_LEN` (R6). -/
def hdrLen : Nat := 5

/-- `CSUM_LEN` (R6). -/
def csumLen : Nat := 2

/-- `MIN_PKT = HDR_LEN + CSUM_LEN` (R6). -/
def minPkt : Nat := hdrLen + csumLen

/-- What an accumulator cell reads as until APPEND writes it. R25 leaves the contents unspecified.
DESIGN CHOICE, unsafe (LOG 1); no event depends on it (R43). -/
def accFill : Byte := 0x00

/-- The CAP that `State.reset` finds on `CFG`. The spec leaves CAP OPEN (R7, D17).
DESIGN CHOICE, unsafe (LOG 2): the least capacity that no valid packet overflows (R104, R152). -/
def resetCap : Nat := 65542

/-- The LEN_BASE that `State.reset` finds on `CFG`: the document's value (R7; LOG 15). -/
def resetLenBase : Nat := 7

end Sys2Proof.Config
end

