-- ==== Sys2Proof/Syntax.lean ====
section
/-! DEFINITION. The operations of BSF: one constructor for each row of spec/opcode_table.json, in the
table's order. The block runs no program; "instruction" stands for "operation or byte form"
(spec/30_encoding.md R53, R54, R63). -/

namespace Sys2Proof

/-- An operation or byte form of BSF with its operands. -/
inductive Instr
  | rxEscD                                  -- RX.ESCD, R82
  | rxEscE                                  -- RX.ESCE, R83
  | rxEscV (v : Byte)                       -- RX.ESCV, R84
  | rxEsc                                   -- RX.ESC, R85
  | rxDelim                                 -- RX.DELIM, R86
  | rxData (v : Byte)                       -- RX.DATA, R87
  | txSubD                                  -- TX.SUBD, R72
  | txSubE                                  -- TX.SUBE, R73
  | txLit (v : Byte)                        -- TX.LIT, R71
  | encap (p : List Byte)                   -- ENCAP, R70
  | feed (c : List Byte)                    -- FEED, R80
  | step (b : Byte)                         -- STEP, R81
  | append (v : Byte)                       -- APPEND, R88
  | emit                                    -- EMIT, R91
  | csum (buf : List Byte) (len : Nat)      -- CSUM, R100
  | sealPkt (hp : List Byte)                -- SEAL, R102
  | validate (p : List Byte)                -- VALIDATE, R103
  | ingest (c : List Byte)                  -- INGEST, R120
  | decode (s : List Byte)                  -- DECODE, R121
  | reset                                   -- RESET, R122
  | config (cap lenBase : Nat)              -- CONFIG, R123
  deriving DecidableEq, Repr

end Sys2Proof
end

