-- ==== Sys2Proof/WellFormed.lean ====
section
/-! DEFINITION. Which terms of `Instr` are operations of BSF: the three forms that take "any other value"
exclude the values of the forms beside them (spec/30_encoding.md R53, R54; the `excludes` of the opcode
table). Operand values that the spec refuses as a call (CSUM with `len > |buf|`, CAP = 0) are well formed:
the meaning refuses them by name. -/

namespace Sys2Proof

/-- RX.ESCV takes the 254 values other than 0xDC and 0xDD (R84), RX.DATA the 254 other than 0xDB and
0xC0 (R87), TX.LIT the 254 other than 0xC0 and 0xDB (R71). -/
def Instr.wf : Instr → Bool
  | .rxEscV v => v != Config.escDelim && v != Config.escEsc
  | .rxData v => v != Config.esc && v != Config.delim
  | .txLit v => v != Config.delim && v != Config.esc
  | .rxEscD => true
  | .rxEscE => true
  | .rxEsc => true
  | .rxDelim => true
  | .txSubD => true
  | .txSubE => true
  | .encap _ => true
  | .feed _ => true
  | .step _ => true
  | .append _ => true
  | .emit => true
  | .csum _ _ => true
  | .sealPkt _ => true
  | .validate _ => true
  | .ingest _ => true
  | .decode _ => true
  | .reset => true
  | .config _ _ => true

end Sys2Proof
end

