-- ==== Sys2Proof/Decode.lean ====
section
/-! DEFINITION. How an operation is selected (spec/30_encoding.md R53, R54, R63): the receive byte forms by
the 9-bit pair (`esc`, `b`), the transmit byte forms by the packet byte, every other operation by the port
or caller it arrives from. The decoder, the encoder, and the opcode table's bit patterns. -/

namespace Sys2Proof

/-- The receive byte form of the pair (`esc`, `b`). The order of the tests is normative (R53, R81). -/
def rxForm (esc : Bool) (b : Byte) : Instr :=
  if esc then
    if b = Config.escDelim then .rxEscD
    else if b = Config.escEsc then .rxEscE
    else .rxEscV b
  else if b = Config.esc then .rxEsc
  else if b = Config.delim then .rxDelim
  else .rxData b

/-- The transmit byte form of a packet byte (R54). -/
def txForm (b : Byte) : Instr :=
  if b = Config.delim then .txSubD
  else if b = Config.esc then .txSubE
  else .txLit b

/-- What selects an operation that has no bit pattern: the port or caller and its payload (R63). -/
inductive Request
  | txIn (p : List Byte)                       -- a packet on TX_IN: ENCAP
  | rxChunk (c : List Byte)                    -- a chunk on RX_IN: FEED
  | rxByte (b : Byte)                          -- one byte on RX_IN, asked for as STEP
  | appendCall (v : Byte)                      -- the sub-step APPEND (LOG 5)
  | emitCall                                   -- the sub-step EMIT (LOG 5)
  | csumCall (buf : List Byte) (len : Nat)     -- the function CSUM
  | sealCall (hp : List Byte)                  -- the function SEAL
  | validateCall (p : List Byte)               -- the function VALIDATE
  | ingestCall (c : List Byte)                 -- INGEST
  | decodeCall (s : List Byte)                 -- DECODE
  | rst                                        -- RST: RESET
  | cfg (cap lenBase : Nat)                    -- CFG: CONFIG
  deriving DecidableEq, Repr

/-- An operation as it is presented: a word of the table's formats RXB and TXB, lowest byte first, or a
request. -/
inductive Encoded
  | word (bytes : List Byte)
  | request (r : Request)
  deriving DecidableEq, Repr

/-- Why a word is no operation. No transfer on a port of the block is ever one of these (R57). -/
inductive DecodeError
  | noBytes            -- no byte at all
  | reservedBits       -- a two-byte selector with a bit above bit 8 set: the table gives it 9 bits (LOG 13)
  | tooManyBytes       -- more bytes than any format of the table has
  deriving DecidableEq, Repr

/-- What the decoder answers. -/
inductive Decoded
  | instr (i : Instr)
  | rejected (e : DecodeError)
  deriving DecidableEq, Repr

/-- The operation a request asks for (R63). -/
def requestForm : Request → Instr
  | .txIn p => .encap p
  | .rxChunk c => .feed c
  | .rxByte b => .step b
  | .appendCall v => .append v
  | .emitCall => .emit
  | .csumCall buf len => .csum buf len
  | .sealCall hp => .sealPkt hp
  | .validateCall p => .validate p
  | .ingestCall c => .ingest c
  | .decodeCall s => .decode s
  | .rst => .reset
  | .cfg cap lenBase => .config cap lenBase

/-- One byte is format TXB (R54). Two bytes are format RXB: `b`, then a byte that holds `esc` in bit 0 and
nothing else (bit 8 of the selector, R53). -/
def decodeWord : List Byte → Decoded
  | [] => .rejected .noBytes
  | [b] => .instr (txForm b)
  | [b, h] =>
    if h = 0 then .instr (rxForm false b)
    else if h = 1 then .instr (rxForm true b)
    else .rejected .reservedBits
  | _ :: _ :: _ :: _ => .rejected .tooManyBytes

/-- The decoder. -/
def decode : Encoded → Decoded
  | .word bytes => decodeWord bytes
  | .request r => .instr (requestForm r)

/-- The encoder, from the `encoding` column of the opcode table and the `selected by` column of R63. -/
def encode : Instr → Encoded
  | .rxEscD => .word [0xDC, 1]
  | .rxEscE => .word [0xDD, 1]
  | .rxEscV v => .word [v, 1]
  | .rxEsc => .word [0xDB, 0]
  | .rxDelim => .word [0xC0, 0]
  | .rxData v => .word [v, 0]
  | .txSubD => .word [0xC0]
  | .txSubE => .word [0xDB]
  | .txLit v => .word [v]
  | .encap p => .request (.txIn p)
  | .feed c => .request (.rxChunk c)
  | .step b => .request (.rxByte b)
  | .append v => .request (.appendCall v)
  | .emit => .request .emitCall
  | .csum buf len => .request (.csumCall buf len)
  | .sealPkt hp => .request (.sealCall hp)
  | .validate p => .request (.validateCall p)
  | .ingest c => .request (.ingestCall c)
  | .decode s => .request (.decodeCall s)
  | .reset => .request .rst
  | .config cap lenBase => .request (.cfg cap lenBase)

/-- One row of the opcode table that has a bit pattern: `w &&& mask = pattern`, and none of the patterns
of the rows it excludes. -/
structure OpcodeRow where
  nbits : Nat
  mask : Nat
  pattern : Nat
  excluded : List Nat
  deriving DecidableEq, Repr

/-- A word of the row's format fits the row. -/
def OpcodeRow.accepts (r : OpcodeRow) (w : Nat) : Bool :=
  (w &&& r.mask) == r.pattern && !r.excluded.contains w

/-- The row of the opcode table of a byte form; `none` for an operation with no bit pattern. -/
def opcodeRow : Instr → Option OpcodeRow
  | .rxEscD => some ⟨9, 0x1FF, 0x1DC, []⟩
  | .rxEscE => some ⟨9, 0x1FF, 0x1DD, []⟩
  | .rxEscV _ => some ⟨9, 0x100, 0x100, [0x1DC, 0x1DD]⟩
  | .rxEsc => some ⟨9, 0x1FF, 0x0DB, []⟩
  | .rxDelim => some ⟨9, 0x1FF, 0x0C0, []⟩
  | .rxData _ => some ⟨9, 0x100, 0x000, [0x0DB, 0x0C0]⟩
  | .txSubD => some ⟨8, 0xFF, 0xC0, []⟩
  | .txSubE => some ⟨8, 0xFF, 0xDB, []⟩
  | .txLit _ => some ⟨8, 0x00, 0x00, [0xC0, 0xDB]⟩
  | .encap _ => none
  | .feed _ => none
  | .step _ => none
  | .append _ => none
  | .emit => none
  | .csum _ _ => none
  | .sealPkt _ => none
  | .validate _ => none
  | .ingest _ => none
  | .decode _ => none
  | .reset => none
  | .config _ _ => none

/-- The number a word's bytes spell, the first byte least significant. -/
def wordNumber : List Byte → Nat
  | [] => 0
  | b :: bs => b.toNat + 256 * wordNumber bs

/-- The bytes of a table word of `nbits` bits: one byte for format TXB, two for format RXB. -/
def tableWordBytes (nbits w : Nat) : Option (List Byte) :=
  if nbits = 8 then
    if w < 256 then some [BitVec.ofNat 8 w] else none
  else if 8 < nbits ∧ nbits ≤ 16 then
    if w < 65536 then some [BitVec.ofNat 8 w, BitVec.ofNat 8 (w / 256)] else none
  else none

/-- The instruction the decoder reads from a table word, its bits numbered as the table numbers them. -/
def decodeTableWord (nbits w : Nat) : Option Instr :=
  match tableWordBytes nbits w with
  | none => none
  | some bytes =>
    match decode (.word bytes) with
    | .instr i => some i
    | .rejected _ => none

end Sys2Proof
end

