-- ==== Sys2Proof/Machine/State.lean ====
section
/-! DEFINITION. The state of BSF as plain data (spec/10_state.md R10, R17 to R20, R25), the reasons a step
can stop, and the state after reset. -/

namespace Sys2Proof.Machine

/-- The three error kinds of the block (spec/60_exceptions.md R130). -/
inductive ErrorKind
  | framingOverflow    -- code 1
  | lengthMismatch     -- code 2
  | checksumMismatch   -- code 3
  deriving DecidableEq, Repr

/-- The numeric code of an error (R130). -/
def ErrorKind.code : ErrorKind → Nat
  | .framingOverflow => 1
  | .lengthMismatch => 2
  | .checksumMismatch => 3

/-- One element of `RX_EV` (R18): a validated packet, an error, or an unvalidated packet (RXD used without
CSV, R121). -/
inductive Event
  | pkt (p : List Byte)
  | err (k : ErrorKind)
  | raw (p : List Byte)
  deriving DecidableEq, Repr

/-- The verdict of VALIDATE (R103): `OK`, `ERR(2)` or `ERR(3)`. -/
inductive Verdict
  | ok
  | err (k : ErrorKind)
  deriving DecidableEq, Repr

/-- A value that a function of the block returned to its caller (LOG 8). -/
inductive Answer
  | csum (c : Half)                  -- CSUM, R100
  | sealed (p : List Byte)           -- SEAL, R102
  | verdict (v : Verdict)            -- VALIDATE, R103
  | packets (ps : List (List Byte))  -- DECODE, R121
  deriving DecidableEq, Repr

/-- What the environment presents to the block, one entry a transfer (R17, R19, R20, R63). -/
inductive Stimulus
  | rxIn (b : Byte)          -- one byte on RX_IN; its form is selected with `esc` (R53)
  | txByte (b : Byte)        -- one packet byte given to TXF's form selection by itself (R54; LOG 5)
  | request (r : Request)    -- every other operation, by its port or caller (R63)
  deriving DecidableEq, Repr

/-- The accumulator space ACC: (index, byte) pairs in canonical form (R30; `Memory.wf` in Ops.lean). -/
abbrev Memory := List Host.Cell

/-- Why a step stops with a fault. -/
inductive Fault
  /-- An access to an accumulator cell outside `0..CAP-1`, a cell R30 says does not exist. Raised by APPEND
  (and the forms that call it) and by EMIT (and RX.DELIM), only in a state with `cur > CAP`, which no run
  reaches (R94 item 1). Safe. LOG 9. -/
  | accOutOfRange
  deriving DecidableEq, Repr

/-- Why a step is refused. -/
inductive Refusal
  /-- No meaning yet: raised by `exec`'s arm of the named row. Safe. -/
  | notModelled (mnemonic : String)
  /-- CSUM with `len > |buf|`, outside the function's domain: "a model refuses the call" (R100, D16).
  Raised by CSUM. Safe. -/
  | csumLengthBeyondBuffer
  /-- CONFIG with CAP = 0: "CAP = 0 is refused" (R123, D17). Raised by CONFIG. Safe. -/
  | capZero
  /-- EMIT asked for by itself with `ovf = 1` or `cur = 0`, where R91 does not allow the call. Raised by
  EMIT. Safe. LOG 6. -/
  | emitNotDue
  /-- A word that is no operation. Raised by `step` on a word no port can carry, so by no stimulus (R57).
  Safe. LOG 13. -/
  | undecodable (e : DecodeError)
  deriving DecidableEq, Repr

/-- The state of BSF. -/
structure State where
  /-- The accumulator (R11). -/
  acc : Memory
  /-- The write cursor (R12). -/
  cur : Nat
  /-- The un-escaping flag (R13). -/
  esc : Bool
  /-- The discard flag (R14). -/
  ovf : Bool
  /-- CAP as sampled at the last RESET (R7, R123). -/
  cap : Nat
  /-- LEN_BASE as sampled at the last RESET (R7, R123). -/
  lenBase : Nat
  /-- CAP as `CFG` carries it now (R20). -/
  cfgCap : Nat
  /-- LEN_BASE as `CFG` carries it now (R20). -/
  cfgLenBase : Nat
  /-- Transfers presented and not yet accepted, oldest first (R17, R38 item 1; LOG 4). -/
  input : List Stimulus
  /-- The event output `RX_EV` (R18). -/
  rxEv : List Event
  /-- The transmit stream `TX_OUT` (R19). -/
  txOut : List Byte
  /-- The model's own: values returned to callers, oldest first (LOG 8). -/
  answers : List Answer
  deriving DecidableEq, Repr

/-- The state after power-on with the given values on `CFG` (R25, R150): `cur`, `esc`, `ovf` zero, the
outputs empty, CAP and LEN_BASE as given on `CFG`. -/
def State.powerOn (cap lenBase : Nat) : State where
  acc := []
  cur := 0
  esc := false
  ovf := false
  cap := cap
  lenBase := lenBase
  cfgCap := cap
  cfgLenBase := lenBase
  input := []
  rxEv := []
  txOut := []
  answers := []

/-- The machine right after reset, with the model's CAP (LOG 2) and the document's LEN_BASE (R7). -/
def State.reset : State := State.powerOn Config.resetCap Config.resetLenBase

end Sys2Proof.Machine
end

