-- ==== Sys2Proof/Machine/Flags.lean ====
section
/-! DEFINITION. The two flags of BSF, `esc` and `ovf` (spec/10_state.md R13, R14, R22). The checksum leaves
no flag behind (R22, R100). -/

namespace Sys2Proof.Machine

/-- Write the un-escaping flag: to 1 by RX.ESC, to 0 by the three `esc = 1` forms and RESET (R13). -/
def State.setEsc (v : Bool) (s : State) : State := { s with esc := v }

/-- Write the discard flag: to 1 by APPEND on overflow, to 0 by RX.DELIM and RESET (R14). -/
def State.setOvf (v : Bool) (s : State) : State := { s with ovf := v }

end Sys2Proof.Machine
end

