-- ==== Sys2Proof/Machine/Operands.lean ====
section
/-! DEFINITION. The pure functions of BSF: substitution maps and stream format (spec/30_encoding.md R50,
R51, R56), field assembly (R55), and the arithmetic of CSV (spec/42_checksum_validator.md R100 to R105). -/

namespace Sys2Proof.Machine

/-- The two bytes of an escape pair for a packet byte, or the byte itself (R51, R54). -/
def escapeByte (b : Byte) : List Byte :=
  if b = Config.delim then [Config.esc, Config.escDelim]
  else if b = Config.esc then [Config.esc, Config.escEsc]
  else [b]

/-- The encapsulated stream of a packet, format ES (R50, R70). -/
def encapBytes (p : List Byte) : List Byte :=
  Config.delim :: (p.flatMap escapeByte ++ [Config.delim])

/-- `unsub`: what the second byte of an escape pair stands for (R56). -/
def unsub (b : Byte) : Byte :=
  if b = Config.escDelim then Config.delim
  else if b = Config.escEsc then Config.esc
  else b

/-- `le16(lo, hi) = lo + 256 * hi` (spec/00_scope.md R9, spec/20_memory.md R32). -/
def le16 (lo hi : Byte) : Nat := lo.toNat + 256 * hi.toNat

/-- The byte `P[i]` of a packet (R36). Callers read only offsets below `|P|`. -/
def pktByte (p : List Byte) (i : Nat) : Byte := p.getD i 0

/-- The declared payload length (R55). -/
def declared (p : List Byte) : Nat := le16 (pktByte p 3) (pktByte p 4)

/-- The stored checksum (R55). -/
def stored (p : List Byte) : Nat := le16 (pktByte p (p.length - 2)) (pktByte p (p.length - 1))

/-- The 16-bit running sum of CSUM after the given bytes, taken in order from offset 0 (R100, R101). -/
def runningSum (bytes : List Byte) : Half :=
  bytes.foldl (fun sum b => sum + b.setWidth 16) 0

/-- The checksum of the first `len` bytes: `(~sum + 1) & 0xFFFF` (R100). -/
def csum (buf : List Byte) (len : Nat) : Half := ~~~(runningSum (buf.take len)) + 1

/-- The low byte `c[7:0]` of a 16-bit value (R9). -/
def loByte (c : Half) : Byte := c.setWidth 8

/-- The high byte `c[15:8]` of a 16-bit value (R9). -/
def hiByte (c : Half) : Byte := (c >>> 8).setWidth 8

/-- SEAL: the header+payload region followed by its checksum, low byte first (R102). -/
def sealBytes (hp : List Byte) : List Byte :=
  hp ++ [loByte (csum hp hp.length), hiByte (csum hp hp.length)]

/-- VALIDATE (R103): too short or wrong length (R104), then wrong checksum (R105), in that order. -/
def validatePkt (lenBase : Nat) (p : List Byte) : Verdict :=
  if p.length < Config.minPkt then .err .lengthMismatch
  else if p.length ≠ declared p + lenBase then .err .lengthMismatch
  else if (csum p (p.length - Config.csumLen)).toNat ≠ stored p then .err .checksumMismatch
  else .ok

end Sys2Proof.Machine
end

