-- ==== Sys2Proof/Machine/Ops.lean ====
section
/-! DEFINITION. The shared operations of BSF: the accumulator space, the outputs, error entry and recovery,
and the sub-steps and byte forms of the deframer, each written once for every delivery binding. -/

namespace Sys2Proof.Machine

/-- Go on with the next state of a result, or stop where it stopped. -/
def thenDo (r : Host.Outcome State Fault Refusal)
    (k : State → Host.Outcome State Fault Refusal) : Host.Outcome State Fault Refusal :=
  match r with
  | .next s => k s
  | .fault f => .fault f
  | .refused x => .refused x

/-! ## The accumulator space ACC (spec/20_memory.md R30, R37) -/

/-- The byte at an index; an index not listed reads as `Config.accFill` (LOG 1). -/
def Memory.read : Memory → Nat → Byte
  | [], _ => Config.accFill
  | c :: m, a => if c.1 = a then c.2 else Memory.read m a

/-- Write one byte, keeping the list canonical. -/
def Memory.write : Memory → Nat → Byte → Memory
  | [], a, v => if v = Config.accFill then [] else [(a, v)]
  | c :: m, a, v =>
    if a < c.1 then (if v = Config.accFill then c :: m else (a, v) :: c :: m)
    else if a = c.1 then (if v = Config.accFill then m else (a, v) :: m)
    else c :: Memory.write m a v

/-- The cells below an index: what is left of ACC when it has that many cells (LOG 11). -/
def Memory.below (n : Nat) (m : Memory) : Memory := m.filter fun c => decide (c.1 < n)

/-- The canonical form: indices strictly rising, no entry equal to what an unlisted index reads as. -/
abbrev Memory.wf (m : Memory) : Prop :=
  m.Pairwise (fun c d => c.1 < d.1) ∧ ∀ c ∈ m, c.2 ≠ Config.accFill

/-- The accumulator byte `acc[i]` (spec/00_scope.md R9). -/
def State.accRead (s : State) (i : Nat) : Byte := Memory.read s.acc i

/-- The bytes `acc[0..n)` in order (R37 item 2). -/
def State.accCopy (s : State) (n : Nat) : List Byte := (List.range n).map s.accRead

/-- `acc[i] <- v`; a cell outside `0..CAP-1` does not exist (R30; LOG 9). -/
def State.accStore (i : Nat) (v : Byte) (s : State) : Host.Outcome State Fault Refusal :=
  if i < s.cap then .next { s with acc := Memory.write s.acc i v } else .fault .accOutOfRange

/-- Write the cursor (R12). -/
def State.setCur (n : Nat) (s : State) : State := { s with cur := n }

/-! ## Outputs -/

/-- `emit EV`: append one event to `RX_EV` (R9, R18). -/
def State.emitEvent (e : Event) (s : State) : State := { s with rxEv := s.rxEv ++ [e] }

/-- Append a contiguous run of bytes to `TX_OUT` (R19, R74). -/
def State.putTx (out : List Byte) (s : State) : State := { s with txOut := s.txOut ++ out }

/-- Return a value to the caller of a function (LOG 8). -/
def State.answer (a : Answer) (s : State) : State := { s with answers := s.answers ++ [a] }

/-! ## Taking an error, and the return from it (spec/60_exceptions.md R137, R138)

Nothing is saved and control goes nowhere: an error is one event in the step that detects it. The return is
the next unescaped delimiter, and only after FramingOverflow is there anything to undo. -/

/-- `raise`: the event of an error (R9, R137). -/
def State.raise (k : ErrorKind) (s : State) : State := s.emitEvent (.err k)

/-- Error entry of FramingOverflow (R89, R131; LOG 3): `ovf` set, `ERR(1)` emitted, `cur` and `acc` left. -/
def State.overflow (s : State) : State := (s.setOvf true).raise .framingOverflow

/-- Recovery from FramingOverflow at an unescaped delimiter (R86, R90): no packet. -/
def State.resync (s : State) : State := (s.setOvf false).setCur 0

/-! ## Delivery and the sub-steps APPEND and EMIT (spec/41_rx_deframer.md R88, R91) -/

/-- What `deliver P` of EMIT is bound to (R91): validation (INGEST, and the block as a whole; LOG 7), or
nothing (DECODE). -/
inductive Delivery
  | validated
  | raw
  deriving DecidableEq, Repr

/-- The event a packet handed on by EMIT causes (R120, R121). -/
def deliveryEvent (d : Delivery) (lenBase : Nat) (p : List Byte) : Event :=
  match d with
  | .raw => .raw p
  | .validated =>
    match validatePkt lenBase p with
    | .ok => .pkt p
    | .err k => .err k

/-- APPEND (R88 to R90). -/
def appendByte (v : Byte) (s : State) : Host.Outcome State Fault Refusal :=
  if s.ovf then .next s
  else if s.cur = s.cap then .next s.overflow
  else thenDo (s.accStore s.cur v) fun t => .next (t.setCur (s.cur + 1))

/-- EMIT (R91): the copy is taken before the cursor is reset, and is then delivered. -/
def emitPacket (d : Delivery) (s : State) : Host.Outcome State Fault Refusal :=
  if s.cur ≤ s.cap then
    .next ((s.setCur 0).emitEvent (deliveryEvent d s.lenBase (s.accCopy s.cur)))
  else .fault .accOutOfRange

/-! ## The byte forms, STEP and FEED (R80 to R87) -/

/-- The three forms with `esc = 1` (R82 to R84): clear the flag, then append. -/
def appendUnescaped (v : Byte) (s : State) : Host.Outcome State Fault Refusal :=
  appendByte v (s.setEsc false)

/-- RX.DELIM (R86). -/
def delimiter (d : Delivery) (s : State) : Host.Outcome State Fault Refusal :=
  if s.ovf then .next s.resync
  else if 0 < s.cur then emitPacket d s
  else .next s

/-- STEP (R81); the order of the tests is normative. -/
def stepByte (d : Delivery) (b : Byte) (s : State) : Host.Outcome State Fault Refusal :=
  if s.esc then
    if b = Config.escDelim then appendUnescaped Config.delim s
    else if b = Config.escEsc then appendUnescaped Config.esc s
    else appendUnescaped b s
  else if b = Config.esc then .next (s.setEsc true)
  else if b = Config.delim then delimiter d s
  else appendByte b s

/-- FEED (R80): STEP on each byte of the chunk in order, and nothing more. -/
def feedBytes (d : Delivery) : List Byte → State → Host.Outcome State Fault Refusal
  | [], s => .next s
  | b :: c, s => thenDo (stepByte d b s) (feedBytes d c)

/-! ## RESET (spec/43_pipeline_and_system.md R122, R123) -/

/-- Sample `CFG` (R123): from here on ACC has CAP cells (LOG 11). -/
def State.sampleCfg (s : State) : State :=
  { s with acc := Memory.below s.cfgCap s.acc, cap := s.cfgCap, lenBase := s.cfgLenBase }

/-- RESET (R122): `cur`, `esc`, `ovf` to 0, `CFG` sampled, the outputs kept. -/
def State.restart (s : State) : State := (((s.sampleCfg).setCur 0).setEsc false).setOvf false

/-- The packets among a run of events, in order (R121). -/
def rawPackets : List Event → List (List Byte)
  | [] => []
  | .raw p :: evs => p :: rawPackets evs
  | .pkt _ :: evs => rawPackets evs
  | .err _ :: evs => rawPackets evs

end Sys2Proof.Machine
end

