-- ==== Sys2Proof/Machine/Checksum.lean ====
section
/-! DEFINITION. Meanings of the functions of CSV: CSUM, SEAL and VALIDATE (spec/42_checksum_validator.md).
They read no state but LEN_BASE and write none; the value goes to the caller (LOG 8). -/

namespace Sys2Proof.Machine

/-- CSUM (R100); `len > |buf|` is refused (D16). -/
def execCsum (buf : List Byte) (len : Nat) (s : State) : Host.Outcome State Fault Refusal :=
  if len ≤ buf.length then .next (s.answer (.csum (csum buf len)))
  else .refused .csumLengthBeyondBuffer

/-- SEAL (R102). -/
def execSeal (hp : List Byte) (s : State) : Host.Outcome State Fault Refusal :=
  .next (s.answer (.sealed (sealBytes hp)))

/-- VALIDATE (R103), for any byte sequence (LOG 17). -/
def execValidate (p : List Byte) (s : State) : Host.Outcome State Fault Refusal :=
  .next (s.answer (.verdict (validatePkt s.lenBase p)))

end Sys2Proof.Machine
end

