-- ==== Sys2Proof/Machine/Pipeline.lean ====
section
/-! DEFINITION. Meanings of the receive pipeline and the system operations: INGEST, DECODE, RESET and CONFIG
(spec/43_pipeline_and_system.md). -/

namespace Sys2Proof.Machine

/-- INGEST (R120): FEED with every packet passed through VALIDATE. -/
def execIngest (c : List Byte) (s : State) : Host.Outcome State Fault Refusal := feedBytes .validated c s

/-- DECODE (R121): RESET, then FEED with validation bypassed; the events are emitted and the list of
packets is answered (LOG 18). -/
def execDecode (bytes : List Byte) (s : State) : Host.Outcome State Fault Refusal :=
  thenDo (feedBytes .raw bytes s.restart) fun t =>
    .next (t.answer (.packets (rawPackets (t.rxEv.drop s.rxEv.length))))

/-- RESET (R122). -/
def execReset (s : State) : Host.Outcome State Fault Refusal := .next s.restart

/-- CONFIG (R123): the values `CFG` carries until the next CONFIG; RESET samples them (LOG 10). -/
def execConfig (cap lenBase : Nat) (s : State) : Host.Outcome State Fault Refusal :=
  if cap = 0 then .refused .capZero else .next { s with cfgCap := cap, cfgLenBase := lenBase }

end Sys2Proof.Machine
end

