-- ==== Sys2Proof/Machine/RxForms.lean ====
section
/-! DEFINITION. Meanings of the receive side: the six byte forms, STEP, FEED, APPEND and EMIT
(spec/41_rx_deframer.md). In the block `deliver P` is bound to validation (LOG 7).
A form's meaning is its pseudocode, whatever selected it (LOG 14). -/

namespace Sys2Proof.Machine

/-- RX.ESCD (R82). -/
def execRxEscD (s : State) : Host.Outcome State Fault Refusal := appendUnescaped Config.delim s

/-- RX.ESCE (R83). -/
def execRxEscE (s : State) : Host.Outcome State Fault Refusal := appendUnescaped Config.esc s

/-- RX.ESCV (R84). -/
def execRxEscV (v : Byte) (s : State) : Host.Outcome State Fault Refusal := appendUnescaped v s

/-- RX.ESC (R85). -/
def execRxEsc (s : State) : Host.Outcome State Fault Refusal := .next (s.setEsc true)

/-- RX.DELIM (R86). -/
def execRxDelim (s : State) : Host.Outcome State Fault Refusal := delimiter .validated s

/-- RX.DATA (R87). -/
def execRxData (v : Byte) (s : State) : Host.Outcome State Fault Refusal := appendByte v s

/-- STEP (R81). -/
def execStep (b : Byte) (s : State) : Host.Outcome State Fault Refusal := stepByte .validated b s

/-- FEED (R80), one step for the whole chunk (LOG 16). -/
def execFeed (c : List Byte) (s : State) : Host.Outcome State Fault Refusal := feedBytes .validated c s

/-- APPEND (R88). -/
def execAppend (v : Byte) (s : State) : Host.Outcome State Fault Refusal := appendByte v s

/-- EMIT (R91), "Called by RX.DELIM only, with `ovf = 0` and `cur > 0`": elsewhere the call is refused
(LOG 6). -/
def execEmit (s : State) : Host.Outcome State Fault Refusal :=
  if s.ovf = false ∧ 0 < s.cur then emitPacket .validated s else .refused .emitNotDue

end Sys2Proof.Machine
end

