-- ==== Sys2Proof/Machine/TxForms.lean ====
section
/-! DEFINITION. Meanings of the transmit side: the three byte forms and ENCAP (spec/40_tx_framer.md).
`out` of the pseudocode is the run being appended to `TX_OUT`, so a byte form appends to the end of it
(LOG 5). -/

namespace Sys2Proof.Machine

/-- TX.SUBD (R72). -/
def execTxSubD (s : State) : Host.Outcome State Fault Refusal :=
  .next (s.putTx [Config.esc, Config.escDelim])

/-- TX.SUBE (R73). -/
def execTxSubE (s : State) : Host.Outcome State Fault Refusal :=
  .next (s.putTx [Config.esc, Config.escEsc])

/-- TX.LIT (R71). -/
def execTxLit (v : Byte) (s : State) : Host.Outcome State Fault Refusal := .next (s.putTx [v])

/-- ENCAP (R70, R74). -/
def execEncap (p : List Byte) (s : State) : Host.Outcome State Fault Refusal :=
  .next (s.putTx (encapBytes p))

end Sys2Proof.Machine
end

