-- ==== Sys2Proof/Machine/Dispatch.lean ====
section
/-! DEFINITION. The meaning of every operation: one arm for each constructor of `Instr`. -/

namespace Sys2Proof.Machine

def exec (i : Instr) (s : State) : Host.Outcome State Fault Refusal :=
  match i with
  | .rxEscD => Sys2Proof.Machine.execRxEscD s
  | .rxEscE => Sys2Proof.Machine.execRxEscE s
  | .rxEscV v => Sys2Proof.Machine.execRxEscV v s
  | .rxEsc => Sys2Proof.Machine.execRxEsc s
  | .rxDelim => Sys2Proof.Machine.execRxDelim s
  | .rxData v => Sys2Proof.Machine.execRxData v s
  | .txSubD => Sys2Proof.Machine.execTxSubD s
  | .txSubE => Sys2Proof.Machine.execTxSubE s
  | .txLit v => Sys2Proof.Machine.execTxLit v s
  | .encap p => Sys2Proof.Machine.execEncap p s
  | .feed c => Sys2Proof.Machine.execFeed c s
  | .step b => Sys2Proof.Machine.execStep b s
  | .append v => Sys2Proof.Machine.execAppend v s
  | .emit => Sys2Proof.Machine.execEmit s
  | .csum buf len => Sys2Proof.Machine.execCsum buf len s
  | .sealPkt hp => Sys2Proof.Machine.execSeal hp s
  | .validate p => Sys2Proof.Machine.execValidate p s
  | .ingest c => Sys2Proof.Machine.execIngest c s
  | .decode bytes => Sys2Proof.Machine.execDecode bytes s
  | .reset => Sys2Proof.Machine.execReset s
  | .config cap lenBase => Sys2Proof.Machine.execConfig cap lenBase s

end Sys2Proof.Machine
end

