-- ==== Sys2Proof/Machine/Fetch.lean ====
section
/-! DEFINITION. How the block accepts a transfer: the selector of a stimulus (spec/30_encoding.md R53, R54,
R63), and how a table word is placed where the next step accepts it. -/

namespace Sys2Proof.Machine

/-- The selector a stimulus makes in a state: for a byte on `RX_IN`, the byte and `esc` above it (R53). -/
def selector (esc : Bool) : Stimulus → Encoded
  | .rxIn b => .word [b, if esc then 1 else 0]
  | .txByte b => .word [b]
  | .request r => .request r

/-- Present a table word to the block as its oldest transfer. A word of format RXB holds `esc` in bit 8, so
`esc` is set to it and the byte arrives on `RX_IN`; a word of format TXB is a packet byte for TXF. Bits 15:9
of an RXB word have no place to go: the decoder rejects a word that sets one (LOG 13). -/
def State.presentWord (s : State) (nbits w : Nat) : State :=
  if nbits ≤ 8 then { s with input := .txByte (BitVec.ofNat 8 w) :: s.input }
  else { s with esc := w.testBit 8, input := .rxIn (BitVec.ofNat 8 w) :: s.input }

end Sys2Proof.Machine
end

