-- ==== Sys2Proof/Machine/Step.lean ====
section
/-! DEFINITION. One step of BSF: accept the oldest transfer, select its operation, run it
(spec/00_scope.md R8, spec/20_memory.md R35, R38). With nothing presented the block waits
(spec/93_implementation_defined.md U13; LOG 4). -/

namespace Sys2Proof.Machine

def step (s : State) : Host.Outcome State Fault Refusal :=
  match s.input with
  | [] => .next s
  | st :: rest =>
    match decode (selector s.esc st) with
    | .instr i => exec i { s with input := rest }
    | .rejected e => .refused (.undecodable e)

/-- The state with a table word placed where the next step accepts it. -/
def State.withFetchWord (s : State) (nbits w : Nat) : State := s.presentWord nbits w

end Sys2Proof.Machine
end

