-- ==== Sys2Proof/Safety.lean ====
section
/-! DEFINITION. What counts as a safe state and a safe run of BSF: the invariants of spec/41_rx_deframer.md
R94 and spec/10_state.md R12, R18, and the resynchronised state of spec/70_reset_and_hazards.md R155. -/

namespace Sys2Proof.Machine

/-- ACC is a canonical list of existing cells (R30). -/
abbrev State.AccOk (s : State) : Prop := Memory.wf s.acc ∧ ∀ c ∈ s.acc, c.1 < s.cap

/-- `0 <= cur <= CAP`, and `cur = CAP` while a packet is being discarded (R12, R94 items 1 and 2). -/
abbrev State.CursorOk (s : State) : Prop := s.cur ≤ s.cap ∧ (s.ovf = true → s.cur = s.cap)

/-- `CAP >= 1`, in force and on the port (R7, R123). -/
abbrev State.ConfigOk (s : State) : Prop := 1 ≤ s.cap ∧ 1 ≤ s.cfgCap

/-- What an event on `RX_EV` guarantees whatever the configuration was when it was emitted (R18): a `PKT`
has a header and a trailer and its stored checksum is right; a `RAW` is not empty. -/
abbrev Event.Sane : Event → Prop
  | .pkt p => Config.minPkt ≤ p.length ∧ (csum p (p.length - Config.csumLen)).toNat = stored p
  | .raw p => 1 ≤ p.length
  | .err _ => True

/-- Every event on `RX_EV` is sane. -/
def State.EventsOk (s : State) : Prop := ∀ e ∈ s.rxEv, e.Sane

/-- The invariant every step keeps. -/
structure State.Inv (s : State) : Prop where
  acc : s.AccOk
  cursor : s.CursorOk
  config : s.ConfigOk
  events : s.EventsOk

/-- Between packets: the state an unescaped delimiter leaves (R155), `acc` apart. -/
abbrev State.Clean (s : State) : Prop := s.cur = 0 ∧ s.esc = false ∧ s.ovf = false

/-- A step that does not fault: no access to a cell that does not exist. -/
def State.Safe (s : State) : Prop := ∀ f, step s ≠ .fault f

end Sys2Proof.Machine
end

