-- ==== Sys2Proof/Certificates/Slice0/Obligations.lean ====
section
/-! DEFINITION. Statements about BSF for the provers. The reference functions come first, written from the
spec's own formulas with its own numbers, and call none of the model's operations; then the statements, in
the order of OBLIGATIONS.json. A statement about one operation gives its whole next state, so it is also the
operation's frame. -/

namespace Sys2Proof.Reference

open Sys2Proof.Machine

/-! ## Reference functions -/

/-- The stream bytes of one packet byte (spec/30_encoding.md R54). -/
def wireByte (b : Byte) : List Byte :=
  if b = 0xC0 then [0xDB, 0xDC] else if b = 0xDB then [0xDB, 0xDD] else [b]

/-- The encapsulated stream of a packet (R50, R70). -/
def wire (p : List Byte) : List Byte := 0xC0 :: (p.flatMap wireByte ++ [0xC0])

/-- What a byte after an escape byte stands for (R56). -/
def unescaped (b : Byte) : Byte := if b = 0xDC then 0xC0 else if b = 0xDD then 0xDB else b

/-- The plain sum of the bytes, unsigned (spec/42_checksum_validator.md R101 law 3). -/
def byteSum (bytes : List Byte) : Nat := (bytes.map BitVec.toNat).sum

/-- The checksum of all the bytes: `(65536 - sum) mod 65536` (R100). -/
def checksum (bytes : List Byte) : Nat := (65536 - byteSum bytes % 65536) % 65536

/-- The byte of a packet at an offset, as a number (R36). -/
def byteAt (p : List Byte) (i : Nat) : Nat := (p.getD i 0).toNat

/-- VALIDATE (R103). -/
def verdict (lenBase : Nat) (p : List Byte) : Verdict :=
  if p.length < 7 then .err .lengthMismatch
  else if p.length ≠ byteAt p 3 + 256 * byteAt p 4 + lenBase then .err .lengthMismatch
  else if checksum (p.take (p.length - 2))
      ≠ byteAt p (p.length - 2) + 256 * byteAt p (p.length - 1) then .err .checksumMismatch
  else .ok

/-- The event of a packet that INGEST hands on (spec/43_pipeline_and_system.md R120). -/
def handedOn (lenBase : Nat) (p : List Byte) : Event :=
  match verdict lenBase p with
  | .ok => .pkt p
  | .err k => .err k

/-- SEAL (R102): low byte first. -/
def withChecksum (hp : List Byte) : List Byte :=
  hp ++ [BitVec.ofNat 8 (checksum hp % 256), BitVec.ofNat 8 (checksum hp / 256)]

/-- `acc[0..cur)` (spec/20_memory.md R37). -/
def contents (s : State) : List Byte := (List.range s.cur).map s.accRead

/-- The un-escaping flag after a run of stream bytes (spec/41_rx_deframer.md R81, R94 item 4). -/
def escAfter : Bool → List Byte → Bool
  | e, [] => e
  | e, b :: bs => escAfter (!e && b == 0xDB) bs

/-- How many bytes of a run are unescaped delimiters (R81, R94 item 5). -/
def delimiters : Bool → List Byte → Nat
  | _, [] => 0
  | e, b :: bs => (if e = false ∧ b = 0xC0 then 1 else 0) + delimiters (!e && b == 0xDB) bs

/-- The un-escaped bytes since the last unescaped delimiter, after a run of stream bytes, where `q` are
those before it (R94 item 3). -/
def pending : Bool → List Byte → List Byte → List Byte
  | _, q, [] => q
  | true, q, b :: bs => pending false (q ++ [unescaped b]) bs
  | false, q, b :: bs =>
    if b = 0xDB then pending true q bs
    else if b = 0xC0 then pending false [] bs
    else pending false (q ++ [b]) bs

/-- The packets among a run of events (spec/43_pipeline_and_system.md R121). -/
def rawOf : Event → Option (List Byte)
  | .raw p => some p
  | .pkt _ => none
  | .err _ => none

/-- The event INGEST emits where the deframer alone emits the given one (R120). -/
def judged (lenBase : Nat) : Event → Event
  | .raw p => handedOn lenBase p
  | .pkt p => .pkt p
  | .err k => .err k

/-- The deframer without CSV, as the bytes alone determine it: the flags, `acc[0..cur)`, and the events so far
(R81 to R91). -/
structure Deframed where
  esc : Bool
  ovf : Bool
  held : List Byte
  events : List Event
  deriving DecidableEq, Repr

/-- One stream byte (R53, R81): an escape byte, a delimiter, or a byte to append. -/
def deframeByte (cap : Nat) (d : Deframed) (b : Byte) : Deframed :=
  if d.esc = false ∧ b = 0xDB then { d with esc := true }
  else if d.esc = false ∧ b = 0xC0 then
    if d.ovf then { d with ovf := false, held := [] }
    else if d.held = [] then d
    else { d with held := [], events := d.events ++ [.raw d.held] }
  else if d.ovf then { d with esc := false }
  else if d.held.length = cap then
    { d with esc := false, ovf := true, events := d.events ++ [.err .framingOverflow] }
  else { d with esc := false, held := d.held ++ [if d.esc then unescaped b else b] }

/-- A whole stream from the reset state (R25, R121). -/
def deframe (cap : Nat) (bytes : List Byte) : Deframed :=
  bytes.foldl (deframeByte cap) ⟨false, false, [], []⟩

/-- The cells a run of stream bytes stores to, from the given `esc`, `ovf` and `cur` (R37, R81 to R90). -/
def storedCells (cap : Nat) : Bool → Bool → Nat → List Byte → List Nat
  | _, _, _, [] => []
  | esc, ovf, cur, b :: bs =>
    if esc = false ∧ b = 0xDB then storedCells cap true ovf cur bs
    else if esc = false ∧ b = 0xC0 then storedCells cap false false 0 bs
    else if ovf = false ∧ cur < cap then cur :: storedCells cap false false (cur + 1) bs
    else storedCells cap false true cur bs

/-- Every cell outside the given ones reads as before. -/
def CellsKept (cells : List Nat) (s t : State) : Prop :=
  ∀ a, a ∉ cells → t.accRead a = s.accRead a

/-- The event of one encapsulated packet that arrives between packets: none for the empty packet, one
FramingOverflow for one longer than CAP, else what `handedOn` says (R76, R90, R93, R120). -/
def packetEvents (cap lenBase : Nat) (p : List Byte) : List Event :=
  if p.length = 0 then []
  else if cap < p.length then [.err .framingOverflow]
  else [handedOn lenBase p]

/-- What APPEND `v` leads to (R88): the byte dropped, the overflow, or the byte stored at `cur`. In the last
case every cell but `cur` reads as before. -/
def AfterAppend (v : Byte) (s t : State) : Prop :=
  (s.ovf = true → t = s) ∧
  (s.ovf = false → s.cur = s.cap →
    t = { s with ovf := true, rxEv := s.rxEv ++ [.err .framingOverflow] }) ∧
  (s.ovf = false → s.cur < s.cap →
    t = { s with acc := t.acc, cur := s.cur + 1 } ∧ t.accRead s.cur = v ∧
    ∀ i, i ≠ s.cur → t.accRead i = s.accRead i)

/-- What an unescaped delimiter leads to (R86), for packets handed on as `ev` says. -/
def AfterDelimiter (ev : List Byte → Event) (s t : State) : Prop :=
  (s.ovf = true → t = { s with ovf := false, cur := 0 }) ∧
  (s.ovf = false → s.cur = 0 → t = s) ∧
  (s.ovf = false → 0 < s.cur → t = { s with cur := 0, rxEv := s.rxEv ++ [ev (contents s)] })

/-- What one RXD step with byte `b` leads to: the transition table of RXD (R81 to R91), for packets handed on
as `ev` says. -/
def AfterStep (ev : List Byte → Event) (b : Byte) (s t : State) : Prop :=
  (s.esc = true → AfterAppend (unescaped b) { s with esc := false } t) ∧
  (s.esc = false → b = 0xDB → t = { s with esc := true }) ∧
  (s.esc = false → b = 0xC0 → AfterDelimiter ev s t) ∧
  (s.esc = false → b ≠ 0xDB → b ≠ 0xC0 → AfterAppend b s t)

/-- A byte on `RX_IN` is the form `i` when `esc` has the given value (R53). -/
def Selects (esc : Bool) (b : Byte) (i : Instr) : Prop :=
  Sys2Proof.decode (selector esc (.rxIn b)) = .instr i

/-- Two states that differ at most in accumulator bytes at or beyond the cursor (spec/20_memory.md R43). -/
def SameBelowCursor (s t : State) : Prop :=
  t = { s with acc := t.acc } ∧ ∀ i, i < s.cur → t.accRead i = s.accRead i

end Sys2Proof.Reference

open Sys2Proof Sys2Proof.Machine Sys2Proof.Reference

/-! ## Reset, the step, and the invariant -/

/-- R25. After power-on with any configuration on `CFG`; `State.reset` is such a state with the document's
LEN_BASE. The contents of `acc` are not stated. -/
def Obligations.PowerOnLeavesTheResetValues : Prop :=
  (∀ cap lenBase,
    (State.powerOn cap lenBase).cur = 0 ∧ (State.powerOn cap lenBase).esc = false ∧
    (State.powerOn cap lenBase).ovf = false ∧ (State.powerOn cap lenBase).rxEv = [] ∧
    (State.powerOn cap lenBase).txOut = [] ∧ (State.powerOn cap lenBase).cap = cap ∧
    (State.powerOn cap lenBase).lenBase = lenBase) ∧
  ∃ cap, 1 ≤ cap ∧ State.reset = State.powerOn cap 7

/-- The invariant holds after power-on with any legal CAP, so at `State.reset`. -/
def Obligations.PowerOnMeetsTheInvariant : Prop :=
  (∀ cap lenBase, 1 ≤ cap → (State.powerOn cap lenBase).Inv) ∧ State.reset.Inv

/-- R12, R94 items 1 and 2, R18, R123: canonical accumulator of existing cells, `cur ≤ CAP`, discarding only
when full, legal configuration, sane events. From every state that meets it, not only runs from reset. -/
def Obligations.StepKeepsTheInvariant : Prop :=
  ∀ s s' : State, s.Inv → step s = .next s' → s'.Inv

/-- In a state of the invariant a step answers a next state, but for the three calls the model refuses: CSUM
beyond its buffer (R100), CAP = 0 (R123), and EMIT where R91 does not allow the call (LOG 6). -/
def Obligations.StepStopsOnlyAtRefusedCalls : Prop :=
  ∀ s : State, s.Inv →
    (∃ t, step s = .next t) ∨
    (∃ buf len rest, s.input = .request (.csumCall buf len) :: rest ∧ buf.length < len ∧
      step s = .refused .csumLengthBeyondBuffer) ∨
    (∃ lenBase rest, s.input = .request (.cfg 0 lenBase) :: rest ∧ step s = .refused .capZero) ∨
    (∃ rest, s.input = .request .emitCall :: rest ∧ (s.ovf = true ∨ s.cur = 0) ∧
      step s = .refused .emitNotDue)

/-- A step accepts the oldest transfer, decodes its selector and runs the operation on the rest; with
nothing presented it changes nothing (LOG 4). -/
def Obligations.StepRunsTheDecodedInstruction : Prop :=
  (∀ (s : State) (st : Stimulus) (rest : List Stimulus) (i : Instr), s.input = st :: rest →
    Sys2Proof.decode (selector s.esc st) = .instr i → step s = exec i { s with input := rest }) ∧
  ∀ s : State, s.input = [] → step s = .next s

/-- One byte on `RX_IN` is one STEP, whatever the byte and the state (R17, R81). -/
def Obligations.ReceivedByteRunsOneStep : Prop :=
  ∀ (s : State) (b : Byte) (rest : List Stimulus), s.input = .rxIn b :: rest →
    step s = exec (.step b) { s with input := rest }

/-! ## Encodings -/

/-- R53: the six receive forms, `esc` tested first. -/
def Obligations.ReceiveSelectorPicksTheForm : Prop :=
  ∀ b : Byte,
    Selects true b
      (if b = 0xDC then .rxEscD else if b = 0xDD then .rxEscE else .rxEscV b) ∧
    Selects false b
      (if b = 0xDB then .rxEsc else if b = 0xC0 then .rxDelim else .rxData b)

/-- R54: the three transmit forms, by the byte alone. -/
def Obligations.TransmitBytePicksTheForm : Prop :=
  ∀ (esc : Bool) (b : Byte), Sys2Proof.decode (selector esc (.txByte b)) =
    .instr (if b = 0xC0 then .txSubD else if b = 0xDB then .txSubE else .txLit b)

/-- R57: no stream byte is illegal. Every transfer, in every state, is one well-formed operation. -/
def Obligations.EveryTransferIsAnOperation : Prop :=
  ∀ (esc : Bool) (st : Stimulus), ∃ i, Sys2Proof.decode (selector esc st) = .instr i ∧ i.wf = true

/-- No operand bit of an encoding is dropped: not by the decoder, not by the table's numbering of a word's
bits, and not on the way through a step. Every well-formed operation can be presented, and a step that accepts
its encoding runs it. -/
def Obligations.EncodedOperationDecodesToItself : Prop :=
  (∀ i : Instr, i.wf = true → Sys2Proof.decode (encode i) = .instr i) ∧
  (∀ (i : Instr) (bytes : List Byte), i.wf = true → encode i = .word bytes →
    decodeTableWord (8 * bytes.length) (wordNumber bytes) = some i) ∧
  ∀ i : Instr, i.wf = true →
    (∃ esc st, selector esc st = encode i) ∧
    ∀ (esc : Bool) (st : Stimulus) (s : State), selector esc st = encode i →
      step { s with esc := esc, input := st :: s.input } = exec i { s with esc := esc }

/-- Every word and request the decoder accepts is the encoding of one well-formed operation. -/
def Obligations.AcceptedWordIsAnEncoding : Prop :=
  ∀ (e : Encoded) (i : Instr), Sys2Proof.decode e = .instr i → i.wf = true ∧ encode i = e

/-- Words written out from the opcode table's `encoding` column. -/
def Obligations.TableWordsDecode : Prop :=
  decodeTableWord 16 0b111011100 = some .rxEscD ∧ decodeTableWord 16 0b111011101 = some .rxEscE ∧
  decodeTableWord 16 0b111000000 = some (.rxEscV 0xC0) ∧ decodeTableWord 16 0b011011011 = some .rxEsc ∧
  decodeTableWord 16 0b011000000 = some .rxDelim ∧ decodeTableWord 16 0b001000001 = some (.rxData 0x41) ∧
  decodeTableWord 8 0b11000000 = some .txSubD ∧ decodeTableWord 8 0b11011011 = some .txSubE ∧
  decodeTableWord 8 0b11011100 = some (.txLit 0xDC)

/-- A two-byte selector with a bit above bit 8 is rejected by name: the model's reading of a 9-bit selector
in whole bytes (LOG 13), not a rule of the spec. -/
def Obligations.SelectorBitsAboveEscAreRejected : Prop :=
  ∀ b h : Byte, 2 ≤ h.toNat → Sys2Proof.decode (.word [b, h]) = .rejected .reservedBits

/-- R53: "Six forms cover all 512 combinations, each exactly once", by mask, pattern and exclusions of the
opcode table; the row that takes a selector is the row of the form the decoder picks. -/
def Obligations.ReceiveRowsCoverEachSelectorOnce : Prop :=
  ∀ (esc : Bool) (b : Byte),
    ([Instr.rxEscD, .rxEscE, .rxEscV b, .rxEsc, .rxDelim, .rxData b].filter fun i =>
      (opcodeRow i).any fun r => r.accepts (b.toNat + if esc then 256 else 0)) = [rxForm esc b]

/-! ## The receive byte forms and sub-steps -/

/-- Selected with `esc = 1`; clear `esc`, then append 0xC0, 0xDB or the byte itself (R82, R83, R84). That a form
runs also with `esc = 0`, and RX.ESCV also with 0xDC or 0xDD, is the model's choice (LOG 14). -/
def Obligations.EscapedFormsClearEscAndAppend : Prop :=
  Selects true 0xDC .rxEscD ∧ Selects true 0xDD .rxEscE ∧
  (∀ v : Byte, v ≠ 0xDC → v ≠ 0xDD → Selects true v (.rxEscV v)) ∧
  ∀ s : State, Memory.wf s.acc → s.cur ≤ s.cap →
    (∃ t, exec .rxEscD s = .next t ∧ AfterAppend 0xC0 { s with esc := false } t) ∧
    (∃ t, exec .rxEscE s = .next t ∧ AfterAppend 0xDB { s with esc := false } t) ∧
    ∀ v : Byte, ∃ t, exec (.rxEscV v) s = .next t ∧ AfterAppend v { s with esc := false } t

/-- RX.DATA is selected with `esc = 0` by every byte but 0xDB and 0xC0, and is APPEND (R87, R88). That RX.DATA
runs also with `esc = 1` or with those two bytes is the model's choice (LOG 14), and that APPEND can be asked
for by itself too (LOG 5). -/
def Obligations.DataFormAndAppendStoreTheByte : Prop :=
  (∀ v : Byte, v ≠ 0xDB → v ≠ 0xC0 → Selects false v (.rxData v)) ∧
  ∀ (s : State) (v : Byte), Memory.wf s.acc → s.cur ≤ s.cap →
    (∃ t, exec (.rxData v) s = .next t ∧ AfterAppend v s t) ∧
    ∃ t, exec (.append v) s = .next t ∧ AfterAppend v s t

/-- Selected with `esc = 0` by 0xDB; sets `esc` and nothing else, even at `cur = CAP` and while a packet is
being discarded (R85). That it runs also with `esc = 1` is the model's choice (LOG 14). -/
def Obligations.EscFormSetsTheFlagOnly : Prop :=
  Selects false 0xDB .rxEsc ∧ ∀ s : State, exec .rxEsc s = .next { s with esc := true }

/-- Selected with `esc = 0` by 0xC0; the three branches, for both bindings of `deliver P` (R86). That
`exec .rxDelim` is the validated one is the model's reading (LOG 7), and that it runs also with `esc = 1` its
choice (LOG 14). -/
def Obligations.DelimiterEndsThePacket : Prop :=
  Selects false 0xC0 .rxDelim ∧
  ∀ s : State, s.cur ≤ s.cap →
    (∃ t, exec .rxDelim s = .next t ∧ AfterDelimiter (handedOn s.lenBase) s t) ∧
    ∃ t, delimiter .raw s = .next t ∧ AfterDelimiter Event.raw s t

/-- EMIT copies `acc[0..cur)`, resets the cursor and hands the copy on, for both bindings of `deliver P` (R91).
That `exec .emit` is the validated one is the model's reading (LOG 7), and that EMIT can be asked for by itself
its choice (LOG 5). -/
def Obligations.EmitHandsOnACopy : Prop :=
  ∀ s : State, s.ovf = false → 0 < s.cur → s.cur ≤ s.cap →
    exec .emit s = .next { s with cur := 0, rxEv := s.rxEv ++ [handedOn s.lenBase (contents s)] } ∧
    emitPacket .raw s = .next { s with cur := 0, rxEv := s.rxEv ++ [.raw (contents s)] }

/-- R91 allows the call only with `ovf = 0` and `cur > 0`; the model refuses it elsewhere by name. The
refusal is the model's choice (LOG 6). -/
def Obligations.EmitElsewhereIsRefused : Prop :=
  ∀ s : State, s.ovf = true ∨ s.cur = 0 → exec .emit s = .refused .emitNotDue

/-- At `cur = CAP` with `ovf = 0` every appending form drops its byte, sets `ovf` and emits `ERR(1)` in the same
step; `cur` and `acc` stay (R89). That a form runs whatever selected it is the model's choice (LOG 14), and that
APPEND can be asked for by itself too (LOG 5). -/
def Obligations.OverflowEntryEmitsOneError : Prop :=
  ∀ s : State, s.ovf = false → s.cur = s.cap →
    (∀ v, exec (.append v) s =
      .next { s with ovf := true, rxEv := s.rxEv ++ [.err .framingOverflow] }) ∧
    (∀ v, exec (.rxData v) s =
      .next { s with ovf := true, rxEv := s.rxEv ++ [.err .framingOverflow] }) ∧
    exec .rxEscD s =
      .next { s with esc := false, ovf := true, rxEv := s.rxEv ++ [.err .framingOverflow] } ∧
    exec .rxEscE s =
      .next { s with esc := false, ovf := true, rxEv := s.rxEv ++ [.err .framingOverflow] } ∧
    ∀ v, exec (.rxEscV v) s =
      .next { s with esc := false, ovf := true, rxEv := s.rxEv ++ [.err .framingOverflow] }

/-- While `ovf = 1` a run of bytes without an unescaped delimiter changes `esc` alone; the next unescaped
delimiter clears `ovf` and `cur` and emits nothing; the packet after it is received normally (R90). That this
packet's event is the validated one is the model's reading (LOG 7). -/
def Obligations.DiscardLastsToTheNextDelimiter : Prop :=
  ∀ (s : State) (bs : List Byte), s.ovf = true → delimiters s.esc bs = 0 →
    exec (.feed bs) s = .next { s with esc := escAfter s.esc bs } ∧
    (escAfter s.esc bs = false →
      exec (.feed (bs ++ [0xC0])) s = .next { s with esc := false, ovf := false, cur := 0 } ∧
      ∀ p : List Byte, Memory.wf s.acc → 1 ≤ p.length → p.length ≤ s.cap →
        ∃ t, exec (.feed (bs ++ [0xC0] ++ wire p)) s = .next t ∧
          t = { s with acc := t.acc, esc := false, ovf := false, cur := 0,
                       rxEv := s.rxEv ++ [handedOn s.lenBase p] })

/-- STEP is defined for every byte in every state with `cur ≤ CAP`, follows the transition table of RXD, and
emits at most one event; for both bindings of `deliver P` (R81). That `exec (.step b)` is the validated one is
the model's reading (LOG 7). -/
def Obligations.StepFollowsTheTransitionTable : Prop :=
  ∀ (s : State) (b : Byte), Memory.wf s.acc → s.cur ≤ s.cap →
    (∃ t, exec (.step b) s = .next t ∧ AfterStep (handedOn s.lenBase) b s t ∧
      (t.rxEv = s.rxEv ∨ ∃ e, t.rxEv = s.rxEv ++ [e])) ∧
    ∃ t, stepByte .raw b s = .next t ∧ AfterStep Event.raw b s t ∧
      (t.rxEv = s.rxEv ∨ ∃ e, t.rxEv = s.rxEv ++ [e])

/-- R13, R94 item 4: which operations write `esc`, and to what. -/
def Obligations.EscIsWrittenOnlyByItsForms : Prop :=
  ∀ (i : Instr) (s t : State), exec i s = .next t → t.esc =
    match i with
    | .rxEsc => true
    | .rxEscD | .rxEscE | .rxEscV _ | .reset => false
    | .step b => !s.esc && b == 0xDB
    | .feed c | .ingest c => escAfter s.esc c
    | .decode c => escAfter false c
    | .rxDelim | .rxData _ | .txSubD | .txSubE | .txLit _ | .encap _ | .append _ | .emit
    | .csum _ _ | .sealPkt _ | .validate _ | .config _ _ => s.esc

/-! ## FEED and the laws of the deframer -/

/-- R80: FEED is a left fold of STEP; the empty chunk is the identity; a chunk cut in two has the same
effect. -/
def Obligations.FeedIsALeftFoldOfStep : Prop :=
  (∀ s : State, exec (.feed []) s = .next s) ∧
  (∀ (s : State) (b : Byte) (c : List Byte),
    exec (.feed (b :: c)) s = thenDo (exec (.step b) s) (exec (.feed c))) ∧
  ∀ (s : State) (c d : List Byte),
    exec (.feed (c ++ d)) s = thenDo (exec (.feed c) s) (exec (.feed d))

/-- R92: any way of cutting a stream into chunks ends in the same state with the same events, from any
state. -/
def Obligations.ChunkBoundariesChangeNothing : Prop :=
  ∀ (chunks : List (List Byte)) (s : State),
    exec (.feed chunks.flatten) s =
      chunks.foldl (fun r c => thenDo r (exec (.feed c))) (.next s)

/-- FEED and INGEST answer a next state from every state with `cur ≤ CAP`; they write `acc`, `cur`, `esc`,
`ovf` and `RX_EV` and nothing else, and `cur ≤ CAP` holds after (R80, R120). That it is the same next state for
both, FEED's packets validated too, is the model's reading (LOG 7). -/
def Obligations.FeedAndIngestComplete : Prop :=
  ∀ (s : State) (c : List Byte), s.cur ≤ s.cap →
    ∃ t, exec (.feed c) s = .next t ∧ exec (.ingest c) s = .next t ∧ t.cur ≤ t.cap ∧
      t = { s with acc := t.acc, cur := t.cur, esc := t.esc, ovf := t.ovf, rxEv := t.rxEv }

/-- R94 item 3: `acc[0..cur)` holds, in order, the un-escaped bytes since the last unescaped delimiter,
provided `ovf = 0` after the run. -/
def Obligations.AccumulatorHoldsTheUnescapedBytes : Prop :=
  ∀ (s t : State) (bs : List Byte), Memory.wf s.acc → exec (.feed bs) s = .next t →
    t.ovf = false → contents t = pending s.esc (contents s) bs

/-- R94 item 5: at most one event for each unescaped delimiter besides `ERR(1)`, and a stretch without an
unescaped delimiter causes at most one event, an `ERR(1)`. -/
def Obligations.EventsAreBoundedByDelimiters : Prop :=
  ∀ (s t : State) (bs : List Byte), exec (.feed bs) s = .next t →
    ∃ evs, t.rxEv = s.rxEv ++ evs ∧
      (evs.filter fun e => e ≠ .err .framingOverflow).length ≤ delimiters s.esc bs ∧
      (delimiters s.esc bs = 0 → evs = [] ∨ evs = [.err .framingOverflow])

/-- R93: from a state between packets, the encapsulations of any packets that fit, fed with validation
bypassed, come back as exactly those packets in order; the empty packet causes no event; and the state is
between packets again. -/
def Obligations.DeframerInvertsFramer : Prop :=
  ∀ (s : State) (ps : List (List Byte)), Memory.wf s.acc → s.Clean →
    (∀ p ∈ ps, p.length ≤ s.cap) →
    ∃ t, feedBytes .raw (ps.flatMap wire) s = .next t ∧
      t = { s with acc := t.acc,
                   rxEv := s.rxEv ++ (ps.filter fun p => p ≠ []).map Event.raw }

/-- R155: in every state an unescaped delimiter leaves the resynchronised state, and the next packet that
fits is delivered intact. That FEED delivers it as the validated event `handedOn`, where R155 and R93 speak of
delivery with validation bypassed, is the model's reading (LOG 7). -/
def Obligations.UnescapedDelimiterResynchronises : Prop :=
  ∀ (s : State) (p : List Byte), Memory.wf s.acc → s.cur ≤ s.cap → s.esc = false →
    1 ≤ p.length → p.length ≤ s.cap →
    ∃ t u, exec (.step 0xC0) s = .next t ∧ t.Clean ∧
      exec (.feed (wire p)) t = .next u ∧ u.Clean ∧ u.rxEv = t.rxEv ++ [handedOn s.lenBase p]

/-- R154: an unescaped 0xDB before a packet's leading delimiter puts a 0xC0 in front of that packet and does
no other damage. -/
def Obligations.DanglingEscapeTakesTheDelimiter : Prop :=
  ∀ (s : State) (p : List Byte), Memory.wf s.acc → s.Clean → p.length + 1 ≤ s.cap →
    ∃ t, feedBytes .raw (0xDB :: wire p) s = .next t ∧
      t = { s with acc := t.acc, rxEv := s.rxEv ++ [.raw (0xC0 :: p)] }

/-- R43: no event and no other output depends on the accumulator bytes at or beyond the cursor, so none
depends on what the accumulator held at reset (LOG 1). -/
def Obligations.BytesBeyondTheCursorAreUnobservable : Prop :=
  ∀ s t s' : State, Memory.wf s.acc → Memory.wf t.acc → SameBelowCursor s t → step s = .next s' →
    ∃ t', step t = .next t' ∧ SameBelowCursor s' t'

/-! ## Outputs -/

/-- R18: `RX_EV` only grows; a new `PKT` has passed VALIDATE and has 7 to CAP bytes, a new `RAW` 1 to CAP;
one RXD step emits at most one event. -/
def Obligations.NewEventsAreWithinTheirBounds : Prop :=
  (∀ (i : Instr) (s t : State), exec i s = .next t →
    ∃ evs, t.rxEv = s.rxEv ++ evs ∧
      (∀ p, .pkt p ∈ evs → verdict t.lenBase p = .ok ∧ 7 ≤ p.length ∧ p.length ≤ t.cap) ∧
      ∀ p, .raw p ∈ evs → 1 ≤ p.length ∧ p.length ≤ t.cap) ∧
  ∀ (b : Byte) (s t : State), exec (.step b) s = .next t →
    t.rxEv = s.rxEv ∨ ∃ e, t.rxEv = s.rxEv ++ [e]

/-- No operation erases or reorders what is on `TX_OUT` or `RX_EV` (R18, R19, R122), and none writes the
input that waits. -/
def Obligations.OutputsOnlyGrow : Prop :=
  ∀ (i : Instr) (s t : State), exec i s = .next t →
    (∃ out, t.txOut = s.txOut ++ out) ∧ (∃ evs, t.rxEv = s.rxEv ++ evs) ∧
    (∃ ans, t.answers = s.answers ++ ans) ∧ t.input = s.input

/-- R15, R38 item 5: an ENCAP and a FEED taken in either order end in the same state with the same two
streams. -/
def Obligations.FramerAndDeframerCommute : Prop :=
  ∀ (s : State) (p c : List Byte),
    thenDo (exec (.encap p) s) (exec (.feed c)) = thenDo (exec (.feed c) s) (exec (.encap p))

/-! ## The transmit framer -/

/-- What each transmit form appends (R71, R72, R73, to ENCAP's run). That a form can be asked for by itself and
then appends to `TX_OUT` is the model's choice (LOG 5), and so is TX.LIT of 0xC0 or 0xDB (LOG 14). -/
def Obligations.TransmitFormsEmitTheirBytes : Prop :=
  ∀ s : State,
    exec .txSubD s = .next { s with txOut := s.txOut ++ [0xDB, 0xDC] } ∧
    exec .txSubE s = .next { s with txOut := s.txOut ++ [0xDB, 0xDD] } ∧
    ∀ v : Byte, exec (.txLit v) s = .next { s with txOut := s.txOut ++ [v] }

/-- R70: ENCAP appends the encapsulated stream of the packet, of any length, and writes nothing else. R74:
consecutive encapsulations stand one after the other, nothing merged. -/
def Obligations.EncapAppendsTheWireForm : Prop :=
  (∀ (s : State) (p : List Byte), exec (.encap p) s = .next { s with txOut := s.txOut ++ wire p }) ∧
  ∀ (s : State) (p q : List Byte), thenDo (exec (.encap p) s) (exec (.encap q)) =
    .next { s with txOut := s.txOut ++ (wire p ++ wire q) }

/-- ENCAP is one delimiter, the transmit forms of the packet's bytes in increasing offset, and one delimiter
(R70 and R54). -/
def Obligations.EncapRunsItsByteForms : Prop :=
  ∀ (s : State) (p : List Byte),
    thenDo (p.foldl (fun r b => thenDo r (exec (txForm b))) (.next (s.putTx [0xC0])))
      (fun t => .next (t.putTx [0xC0])) = exec (.encap p) s

/-- R75 laws 1 and 2 of what ENCAP appends: its length, and no 0xC0 but the two delimiters. -/
def Obligations.EncapLengthAndDelimiters : Prop :=
  ∀ (s t : State) (p : List Byte), exec (.encap p) s = .next t →
    ∃ body, t.txOut = s.txOut ++ 0xC0 :: (body ++ [0xC0]) ∧ (0xC0 : Byte) ∉ body ∧
      body.length = p.length + (p.filter fun b => b = 0xC0 ∨ b = 0xDB).length

/-- R75 law 3: in what ENCAP appends every 0xDB is followed by 0xDC or 0xDD. -/
def Obligations.EncapEscapesAreLegalPairs : Prop :=
  ∀ (s t : State) (p : List Byte), exec (.encap p) s = .next t →
    ∃ out, t.txOut = s.txOut ++ out ∧
      ∀ before after, out = before ++ 0xDB :: after →
        ∃ x rest, after = x :: rest ∧ (x = 0xDC ∨ x = 0xDD)

/-- R75 law 4: different packets give different byte sequences. -/
def Obligations.EncapIsInjective : Prop :=
  ∀ (s : State) (p q : List Byte), exec (.encap p) s = exec (.encap q) s → p = q

/-! ## The checksum unit -/

/-- R100: CSUM of the first `len` bytes, as a number; `len > |buf|` is refused. Where the
value is read, in `answers`, is the model's (LOG 8). -/
def Obligations.CsumNegatesTheByteSum : Prop :=
  ∀ (s : State) (buf : List Byte) (len : Nat),
    (len ≤ buf.length → exec (.csum buf len) s = .next { s with
      answers := s.answers ++ [.csum (BitVec.ofNat 16 (checksum (buf.take len)))] }) ∧
    (buf.length < len → exec (.csum buf len) s = .refused .csumLengthBeyondBuffer)

/-- R101 laws 2 and 3: the checksum is the one 16-bit value that makes the plain sum a multiple of 65536. -/
def Obligations.CsumIsTheOnlyCompletion : Prop :=
  ∀ (buf : List Byte) (c : Half),
    (byteSum buf + c.toNat) % 65536 = 0 ↔ c = csum buf buf.length

/-- R101 law 4: the checksum depends only on the multiset of the bytes. -/
def Obligations.CsumIgnoresOrder : Prop :=
  ∀ a b : List Byte, a.Perm b → csum a a.length = csum b b.length

/-- R101 law 5. -/
def Obligations.CsumIsAdditive : Prop :=
  ∀ a b : List Byte, csum (a ++ b) (a ++ b).length = csum a a.length + csum b b.length

/-- R101 law 6: changing exactly one byte of the region changes the checksum. -/
def Obligations.CsumSeesOneChangedByte : Prop :=
  ∀ (a b : List Byte) (x y : Byte), x ≠ y →
    csum (a ++ x :: b) (a ++ x :: b).length ≠ csum (a ++ y :: b) (a ++ y :: b).length

/-- R102: SEAL answers the region followed by its checksum, low byte first, and for a region of at least 5
bytes whose length field equals `m + 2 - LEN_BASE` VALIDATE then says OK. The values are
read in `answers` (LOG 8). -/
def Obligations.SealAppendsTheChecksum : Prop :=
  (∀ (s : State) (hp : List Byte), exec (.sealPkt hp) s =
    .next { s with answers := s.answers ++ [.sealed (withChecksum hp)] }) ∧
  ∀ (s : State) (hp : List Byte), 5 ≤ hp.length →
    byteAt hp 3 + 256 * byteAt hp 4 + s.lenBase = hp.length + 2 →
    exec (.validate (withChecksum hp)) s =
      .next { s with answers := s.answers ++ [.verdict .ok] }

/-- VALIDATE answers its verdict: too short, then wrong length, then wrong checksum (R103, R104, R105). It
reads LEN_BASE and the packet, and writes nothing. That it runs for `n = 0` and `n > CAP`, where R103 gives
`1 <= n <= CAP`, is the model's reading (LOG 17), and the verdict is read in `answers` (LOG 8). -/
def Obligations.ValidateChecksLengthThenChecksum : Prop :=
  ∀ (s : State) (p : List Byte), exec (.validate p) s =
    .next { s with answers := s.answers ++ [.verdict (verdict s.lenBase p)] }

/-- R106: zeros sum to zero; a right checksum is accepted when the length is right; with one byte changed,
the verdict is ERR(2) for a byte of the length field and ERR(3) for any other. -/
def Obligations.OneChangedByteIsRejected : Prop :=
  (∀ n len : Nat, len ≤ n → csum (List.replicate n 0) len = 0) ∧
  (∀ (lenBase : Nat) (p : List Byte), 7 ≤ p.length →
    p.length = byteAt p 3 + 256 * byteAt p 4 + lenBase →
    byteAt p (p.length - 2) + 256 * byteAt p (p.length - 1) = checksum (p.take (p.length - 2)) →
    validatePkt lenBase p = .ok) ∧
  ∀ (lenBase : Nat) (p : List Byte) (k : Nat) (x : Byte), validatePkt lenBase p = .ok →
    k < p.length → x.toNat ≠ byteAt p k →
    validatePkt lenBase (p.set k x) =
      if k = 3 ∨ k = 4 then .err .lengthMismatch else .err .checksumMismatch

/-- R158: two bytes of the region swapped, the length field apart, are not detected. -/
def Obligations.SwappedBytesAreNotDetected : Prop :=
  ∀ (lenBase : Nat) (p : List Byte) (j k : Nat), validatePkt lenBase p = .ok →
    j < p.length - 2 → k < p.length - 2 → j ≠ 3 → j ≠ 4 → k ≠ 3 → k ≠ 4 →
    validatePkt lenBase ((p.set j (p.getD k 0)).set k (p.getD j 0)) = .ok

/-! ## The pipeline and the system operations -/

/-- RESET clears `cur`, `esc`, `ovf`, samples `CFG`, and keeps `RX_EV` and `TX_OUT` (R122). That every
accumulator cell below the sampled CAP reads as before is the model's choice (LOG 11): R122 and R150 leave the
contents of `acc` unspecified. -/
def Obligations.ResetClearsAndSamples : Prop :=
  ∀ s : State, Memory.wf s.acc →
    ∃ t, exec .reset s = .next t ∧
      t = { s with acc := t.acc, cur := 0, esc := false, ovf := false,
                   cap := s.cfgCap, lenBase := s.cfgLenBase } ∧
      ∀ i, i < t.cap → t.accRead i = s.accRead i

/-- CONFIG puts its values on `CFG` and changes nothing in force; CAP = 0 is refused; the values in force
change only at a RESET (DECODE begins with one), and then to what `CFG` carries (R20, R123). That `CFG` holds
CONFIG's values until the next CONFIG is the model's reading (LOG 10). -/
def Obligations.ConfigurationIsSampledAtReset : Prop :=
  (∀ (s : State) (cap lenBase : Nat), 1 ≤ cap →
    exec (.config cap lenBase) s = .next { s with cfgCap := cap, cfgLenBase := lenBase }) ∧
  (∀ (s : State) (lenBase : Nat), exec (.config 0 lenBase) s = .refused .capZero) ∧
  ∀ (i : Instr) (s t : State), exec i s = .next t →
    match i with
    | .reset | .decode _ => t.cap = s.cfgCap ∧ t.lenBase = s.cfgLenBase
    | .rxEscD | .rxEscE | .rxEscV _ | .rxEsc | .rxDelim | .rxData _ | .txSubD | .txSubE | .txLit _
    | .encap _ | .feed _ | .step _ | .append _ | .emit | .csum _ _ | .sealPkt _ | .validate _
    | .ingest _ | .config _ _ => t.cap = s.cap ∧ t.lenBase = s.lenBase

/-- DECODE completes in every state: it is RESET, then FEED with validation bypassed (R121), then the answer,
which is the packets of its `RAW` events in order. What the bytes lead to is `deframe`'s: the events, the flags
and `acc[0..cur)`. Nothing else changes. That it both emits the events and answers the list is the model's
reading (LOG 18, LOG 8). -/
def Obligations.DecodeAnswersTheRawPackets : Prop :=
  ∀ (s : State) (bytes : List Byte),
    ∃ r t evs, exec .reset s = .next r ∧ feedBytes .raw bytes r = .next t ∧ t.rxEv = s.rxEv ++ evs ∧
      exec (.decode bytes) s =
        .next { t with answers := s.answers ++ [.packets (evs.filterMap rawOf)] } ∧
      t = { s with acc := t.acc, cur := t.cur, esc := t.esc, ovf := t.ovf, cap := s.cfgCap,
                   lenBase := s.cfgLenBase, rxEv := t.rxEv } ∧
      (∀ e ∈ evs, (∃ p, e = .raw p) ∨ e = .err .framingOverflow) ∧
      t.esc = escAfter false bytes ∧ t.cur ≤ t.cap ∧
      (Memory.wf s.acc →
        evs = (deframe s.cfgCap bytes).events ∧ contents t = (deframe s.cfgCap bytes).held ∧
        t.esc = (deframe s.cfgCap bytes).esc ∧ t.ovf = (deframe s.cfgCap bytes).ovf)

/-- `DECODE(ENCAP(p))` is `[p]` when `1 ≤ |p| ≤ CAP`, `[]` for the empty packet, and `[]` with one `ERR(1)` when
`|p| > CAP` (R76). That DECODE also emits `RAW(p)` on `RX_EV` beside answering `[p]` is the model's reading
(LOG 18), and that the list is read in `answers` its choice (LOG 8). -/
def Obligations.DecodeInvertsEncap : Prop :=
  ∀ (s : State) (p : List Byte), Memory.wf s.acc →
    ∃ t, exec (.decode (wire p)) s = .next t ∧ t.Clean ∧
      (1 ≤ p.length → p.length ≤ s.cfgCap →
        t.answers = s.answers ++ [.packets [p]] ∧ t.rxEv = s.rxEv ++ [.raw p]) ∧
      (p = [] → t.answers = s.answers ++ [.packets []] ∧ t.rxEv = s.rxEv) ∧
      (s.cfgCap < p.length →
        t.answers = s.answers ++ [.packets []] ∧ t.rxEv = s.rxEv ++ [.err .framingOverflow])

/-- R120: INGEST is FEED with `deliver P` bound to VALIDATE. From every state it goes on where the deframer
alone goes on, leaves the same state, and its events are the deframer's with each `RAW` packet replaced by
the event of its verdict. -/
def Obligations.IngestValidatesEachPacket : Prop :=
  ∀ (s t : State) (c : List Byte), feedBytes .raw c s = .next t →
    ∃ evs, t.rxEv = s.rxEv ++ evs ∧
      exec (.ingest c) s = .next { t with rxEv := s.rxEv ++ evs.map (judged s.lenBase) }

/-- R120, R38 item 2, R138: INGEST of the encapsulations of any packets, whatever their sizes and checksums,
emits the event of each packet in order and is between packets again: no error stops or delays a later
packet. -/
def Obligations.IngestDeliversEveryPacketInOrder : Prop :=
  ∀ (s : State) (ps : List (List Byte)), Memory.wf s.acc → s.Clean →
    ∃ t, exec (.ingest (ps.flatMap wire)) s = .next t ∧
      t = { s with acc := t.acc,
                   rxEv := s.rxEv ++ ps.flatMap (packetEvents s.cap s.lenBase) }

/-- R102, R70, R120 together: a sealed packet that fits, encapsulated onto `TX_OUT` and ingested in chunks
cut anywhere, comes out as one `PKT` with the same bytes. -/
def Obligations.SealedPacketCrossesTheLink : Prop :=
  ∀ (s r : State) (hp : List Byte) (chunks : List (List Byte)), Memory.wf r.acc → r.Clean →
    5 ≤ hp.length → byteAt hp 3 + 256 * byteAt hp 4 + r.lenBase = hp.length + 2 →
    hp.length + 2 ≤ r.cap →
    ∃ s' sent r', exec (.encap (withChecksum hp)) s = .next s' ∧ s'.txOut = s.txOut ++ sent ∧
      (chunks.flatten = sent →
        chunks.foldl (fun o c => thenDo o (exec (.ingest c))) (.next r) = .next r' ∧
        r' = { r with acc := r'.acc, rxEv := r.rxEv ++ [.pkt (withChecksum hp)] })

/-- The frame of every operation (R15, R16, R37, R42, R130). A form that stores nothing leaves `acc` as it is;
a form that appends stores at `cur` if it stores at all, a chunk at the cells `storedCells` computes, and every
other cell reads as before. After RESET and DECODE this is said of the cells the sampled CAP has; that RESET
keeps them is the model's choice (LOG 11), as are the answers (LOG 8). -/
def Obligations.OtherUnitsLeaveTheReceiver : Prop :=
  ∀ (i : Instr) (s t : State), exec i s = .next t →
    match i with
    | .txSubD | .txSubE | .txLit _ | .encap _ => t = { s with txOut := t.txOut }
    | .csum _ _ | .sealPkt _ | .validate _ => t = { s with answers := t.answers }
    | .config _ _ => t = { s with cfgCap := t.cfgCap, cfgLenBase := t.cfgLenBase }
    | .rxEsc => t = { s with esc := t.esc }
    | .rxDelim => t = { s with cur := t.cur, ovf := t.ovf, rxEv := t.rxEv }
    | .emit => t = { s with cur := t.cur, rxEv := t.rxEv }
    | .rxData _ | .append _ =>
      t = { s with acc := t.acc, cur := t.cur, ovf := t.ovf, rxEv := t.rxEv } ∧
      CellsKept (if s.ovf = false ∧ s.cur < s.cap then [s.cur] else []) s t
    | .rxEscD | .rxEscE | .rxEscV _ =>
      t = { s with acc := t.acc, cur := t.cur, esc := t.esc, ovf := t.ovf, rxEv := t.rxEv } ∧
      CellsKept (if s.ovf = false ∧ s.cur < s.cap then [s.cur] else []) s t
    | .step b =>
      t = { s with acc := t.acc, cur := t.cur, esc := t.esc, ovf := t.ovf, rxEv := t.rxEv } ∧
      CellsKept (storedCells s.cap s.esc s.ovf s.cur [b]) s t
    | .feed c | .ingest c =>
      t = { s with acc := t.acc, cur := t.cur, esc := t.esc, ovf := t.ovf, rxEv := t.rxEv } ∧
      CellsKept (storedCells s.cap s.esc s.ovf s.cur c) s t
    | .reset =>
      t = { s with acc := t.acc, cur := 0, esc := false, ovf := false, cap := s.cfgCap,
                   lenBase := s.cfgLenBase } ∧
      ∀ a, a < s.cfgCap → t.accRead a = s.accRead a
    | .decode c =>
      t = { s with acc := t.acc, cur := t.cur, esc := t.esc, ovf := t.ovf, rxEv := t.rxEv,
                   cap := s.cfgCap, lenBase := s.cfgLenBase, answers := t.answers } ∧
      ∀ a, a < s.cfgCap → a ∉ storedCells s.cfgCap false false 0 c → t.accRead a = s.accRead a
end

