-- ==== Sys2Proof/Laws/Checksum.lean ====
section
/-! SUPPORT. The arithmetic of CSV as numbers (R100, R101). -/

namespace Sys2Proof.Machine

theorem runningSum_foldl_toNat (bytes : List Byte) (c : Half) :
    (bytes.foldl (fun sum b => sum + b.setWidth 16) c).toNat =
      (c.toNat + (bytes.map BitVec.toNat).sum) % 65536 := by
  induction bytes generalizing c with
  | nil => have := c.isLt; simp; omega
  | cons b bs ih =>
    have hb := b.isLt
    simp only [List.foldl_cons, ih, List.map_cons, List.sum_cons, BitVec.toNat_add,
      BitVec.toNat_setWidth]
    omega

/-- The running sum is the plain sum modulo 65536, however it is masked (R101 law 1). -/
theorem runningSum_toNat (bytes : List Byte) :
    (runningSum bytes).toNat = (bytes.map BitVec.toNat).sum % 65536 := by
  simpa [runningSum] using runningSum_foldl_toNat bytes 0

/-- Complement and increment is two's-complement negation (R101 law 2). -/
theorem csum_eq_neg (buf : List Byte) (len : Nat) : csum buf len = -runningSum (buf.take len) := by
  rw [csum, BitVec.neg_eq_not_add]
  rfl

theorem le16_split (c : Half) : le16 (loByte c) (hiByte c) = c.toNat := by
  have := c.isLt
  simp only [le16, loByte, hiByte, BitVec.toNat_setWidth, BitVec.toNat_ushiftRight,
    Nat.shiftRight_eq_div_pow]
  omega

theorem le16_inj {a b c d : Byte} (h : le16 a b = le16 c d) : a = c ∧ b = d := by
  have := a.isLt
  have := c.isLt
  simp only [le16] at h
  exact ⟨BitVec.eq_of_toNat_eq (by omega), BitVec.eq_of_toNat_eq (by omega)⟩

/-- All that VALIDATE can say, with its reason (R103). -/
theorem validatePkt_ok_iff (lenBase : Nat) (p : List Byte) : validatePkt lenBase p = .ok ↔
    Config.minPkt ≤ p.length ∧ p.length = declared p + lenBase ∧
    (csum p (p.length - Config.csumLen)).toNat = stored p := by
  unfold validatePkt
  by_cases h1 : p.length < Config.minPkt
  · simp [h1]
  · by_cases h2 : p.length = declared p + lenBase
    · by_cases h3 : (csum p (p.length - Config.csumLen)).toNat = stored p
      · simp [h1, ← h2, h3]; omega
      · simp [h1, ← h2, h3]
    · simp [h1, h2]

end Sys2Proof.Machine
end

