-- ==== Sys2Proof/Laws/Memory.lean ====
section
/-! SUPPORT. The laws of the accumulator space: read after write, the canonical form kept, equal reads give
equal canonical lists. -/

namespace Sys2Proof.Machine

@[simp] theorem Memory.read_nil (a : Nat) : Memory.read [] a = Config.accFill := rfl

@[simp] theorem Memory.read_cons (c : Host.Cell) (m : Memory) (a : Nat) :
    Memory.read (c :: m) a = if c.1 = a then c.2 else Memory.read m a := rfl

theorem Memory.read_of_not_listed {m : Memory} {a : Nat} (h : ∀ c ∈ m, c.1 ≠ a) :
    Memory.read m a = Config.accFill := by
  induction m with
  | nil => rfl
  | cons c m ih =>
    rw [Memory.read_cons, if_neg (h c List.mem_cons_self)]
    exact ih fun d hd => h d (List.mem_cons_of_mem _ hd)

theorem Memory.wf_tail {c : Host.Cell} {m : Memory} (h : Memory.wf (c :: m)) : Memory.wf m :=
  ⟨(List.pairwise_cons.1 h.1).2, fun d hd => h.2 d (List.mem_cons_of_mem _ hd)⟩

theorem Memory.read_below_head {c : Host.Cell} {m : Memory} (h : Memory.wf (c :: m)) {a : Nat}
    (ha : a ≤ c.1) : Memory.read m a = Config.accFill :=
  Memory.read_of_not_listed fun d hd => by
    have := (List.pairwise_cons.1 h.1).1 d hd
    omega

/-- A read after a write gives the value written at its index and the old value elsewhere. -/
theorem Memory.read_write {m : Memory} (h : Memory.wf m) (a : Nat) (v : Byte) (b : Nat) :
    Memory.read (Memory.write m a v) b = if b = a then v else Memory.read m b := by
  induction m with
  | nil => by_cases hv : v = Config.accFill <;> by_cases hb : b = a <;> simp_all [Memory.write, eq_comm]
  | cons c m ih =>
    have low := Memory.read_below_head h (a := a)
    unfold Memory.write
    by_cases h1 : a < c.1
    · have hb : b = a → ¬c.1 = b := by omega
      by_cases hv : v = Config.accFill <;> by_cases hba : b = a <;>
        simp_all [Nat.le_of_lt, eq_comm]
    · by_cases h2 : a = c.1
      · by_cases hv : v = Config.accFill <;> by_cases hba : b = a <;> simp_all [eq_comm]
      · rw [if_neg h1, if_neg h2, Memory.read_cons, Memory.read_cons, ih (Memory.wf_tail h)]
        by_cases hb : c.1 = b
        · have : b ≠ a := by omega
          simp [hb, this]
        · simp [hb]

/-- A write leaves every other index alone, in any list. -/
theorem Memory.read_write_of_ne (m : Memory) {a b : Nat} (v : Byte) (h : b ≠ a) :
    Memory.read (Memory.write m a v) b = Memory.read m b := by
  have h' : a ≠ b := h.symm
  induction m with
  | nil => by_cases hv : v = Config.accFill <;> simp [Memory.write, hv, h']
  | cons c m ih =>
    unfold Memory.write
    by_cases h1 : a < c.1
    · by_cases hv : v = Config.accFill <;> simp [h1, hv, h']
    · by_cases h2 : a = c.1
      · have h3 : c.1 ≠ b := h2 ▸ h'
        by_cases hv : v = Config.accFill <;> simp [h2, hv, h3]
      · rw [if_neg h1, if_neg h2, Memory.read_cons, Memory.read_cons, ih]

theorem Memory.mem_write {m : Memory} {a : Nat} {v : Byte} {c : Host.Cell}
    (h : c ∈ Memory.write m a v) : c ∈ m ∨ (c = (a, v) ∧ v ≠ Config.accFill) := by
  induction m with
  | nil => by_cases hv : v = Config.accFill <;> simp_all [Memory.write]
  | cons d m ih =>
    unfold Memory.write at h
    by_cases h1 : a < d.1
    · by_cases hv : v = Config.accFill
      · simp_all
      · simp_all; tauto
    · by_cases h2 : a = d.1
      · by_cases hv : v = Config.accFill
        · simp_all
        · simp_all; tauto
      · simp only [h1, h2, if_false, List.mem_cons] at h ⊢
        rcases h with h | h
        · exact .inl (.inl h)
        · exact (ih h).imp .inr id

/-- A write keeps the canonical form. -/
theorem Memory.wf_write {m : Memory} (h : Memory.wf m) (a : Nat) (v : Byte) :
    Memory.wf (Memory.write m a v) := by
  refine ⟨?_, fun c hc => ?_⟩
  · induction m with
    | nil => by_cases hv : v = Config.accFill <;> simp [Memory.write, hv]
    | cons d m ih =>
      have hd := List.pairwise_cons.1 h.1
      unfold Memory.write
      by_cases h1 : a < d.1
      · by_cases hv : v = Config.accFill
        · simpa [h1, hv] using hd
        · simp only [h1, hv, if_true, if_false, List.pairwise_cons, List.mem_cons]
          refine ⟨?_, hd⟩
          rintro c (rfl | hc)
          · exact h1
          · exact h1.trans (hd.1 c hc)
      · by_cases h2 : a = d.1
        · by_cases hv : v = Config.accFill
          · simpa [h1, h2, hv] using hd.2
          · simpa [h2, hv] using hd
        · simp only [h1, h2, if_false, List.pairwise_cons]
          refine ⟨fun c hc => ?_, ih (Memory.wf_tail h)⟩
          rcases Memory.mem_write hc with hc | ⟨rfl, -⟩
          · exact hd.1 c hc
          · show d.1 < a
            omega
  · rcases Memory.mem_write hc with hc | ⟨rfl, hv⟩
    · exact h.2 c hc
    · exact hv

/-- Dropping the cells at or above an index keeps the canonical form. -/
theorem Memory.wf_below {m : Memory} (h : Memory.wf m) (n : Nat) : Memory.wf (Memory.below n m) :=
  ⟨h.1.sublist List.filter_sublist, fun c hc => h.2 c (List.mem_filter.1 hc).1⟩

theorem Memory.mem_below {m : Memory} {n : Nat} {c : Host.Cell} (h : c ∈ Memory.below n m) :
    c ∈ m ∧ c.1 < n := by simpa [Memory.below] using h

theorem Memory.read_below (m : Memory) {n a : Nat} (h : a < n) :
    Memory.read (Memory.below n m) a = Memory.read m a := by
  induction m with
  | nil => rfl
  | cons c m ih =>
    by_cases hc : c.1 < n
    · simp only [Memory.below, List.filter_cons, hc, decide_true, if_true, Memory.read_cons] at ih ⊢
      rw [ih]
    · have : c.1 ≠ a := by omega
      simpa [Memory.below, List.filter_cons, hc, this] using ih

/-- Canonical lists that read alike are equal. -/
theorem Memory.wf_ext {m m' : Memory} (h : Memory.wf m) (h' : Memory.wf m')
    (hr : ∀ a, Memory.read m a = Memory.read m' a) : m = m' := by
  induction m generalizing m' with
  | nil =>
    cases m' with
    | nil => rfl
    | cons d m' => exact absurd (by simpa using (hr d.1).symm) (h'.2 d List.mem_cons_self)
  | cons c m ih =>
    cases m' with
    | nil => exact absurd (by simpa using hr c.1) (h.2 c List.mem_cons_self)
    | cons d m' =>
      have hc := h.2 c List.mem_cons_self
      have hd := h'.2 d List.mem_cons_self
      have key : c.1 = d.1 := by
        rcases Nat.lt_trichotomy c.1 d.1 with hlt | heq | hgt
        · have := hr c.1
          rw [Memory.read_cons, if_pos rfl, Memory.read_cons, if_neg (by omega),
            Memory.read_below_head h' hlt.le] at this
          exact absurd this hc
        · exact heq
        · have := hr d.1
          rw [Memory.read_cons, if_neg (by omega), Memory.read_cons, if_pos rfl,
            Memory.read_below_head h hgt.le] at this
          exact absurd this.symm hd
      have hval : c.2 = d.2 := by simpa [key] using hr c.1
      have htail : m = m' := ih (Memory.wf_tail h) (Memory.wf_tail h') fun a => by
        by_cases ha : c.1 = a
        · rw [Memory.read_below_head h ha.ge, Memory.read_below_head h' (key ▸ ha.ge)]
        · simpa [ha, key ▸ ha] using hr a
      rw [Prod.ext key hval, htail]

end Sys2Proof.Machine
end

