-- ==== Sys2Proof/Laws/State.lean ====
section
/-! SUPPORT. One lemma for each field of each state update, so that no proof unfolds a record update. -/

namespace Sys2Proof.Machine

variable (s : State)

@[simp] theorem State.setEsc_acc (v : Bool) : (s.setEsc v).acc = s.acc := rfl
@[simp] theorem State.setEsc_cur (v : Bool) : (s.setEsc v).cur = s.cur := rfl
@[simp] theorem State.setEsc_esc (v : Bool) : (s.setEsc v).esc = v := rfl
@[simp] theorem State.setEsc_ovf (v : Bool) : (s.setEsc v).ovf = s.ovf := rfl
@[simp] theorem State.setEsc_cap (v : Bool) : (s.setEsc v).cap = s.cap := rfl
@[simp] theorem State.setEsc_lenBase (v : Bool) : (s.setEsc v).lenBase = s.lenBase := rfl
@[simp] theorem State.setEsc_cfgCap (v : Bool) : (s.setEsc v).cfgCap = s.cfgCap := rfl
@[simp] theorem State.setEsc_cfgLenBase (v : Bool) : (s.setEsc v).cfgLenBase = s.cfgLenBase := rfl
@[simp] theorem State.setEsc_input (v : Bool) : (s.setEsc v).input = s.input := rfl
@[simp] theorem State.setEsc_rxEv (v : Bool) : (s.setEsc v).rxEv = s.rxEv := rfl
@[simp] theorem State.setEsc_txOut (v : Bool) : (s.setEsc v).txOut = s.txOut := rfl
@[simp] theorem State.setEsc_answers (v : Bool) : (s.setEsc v).answers = s.answers := rfl

@[simp] theorem State.setOvf_acc (v : Bool) : (s.setOvf v).acc = s.acc := rfl
@[simp] theorem State.setOvf_cur (v : Bool) : (s.setOvf v).cur = s.cur := rfl
@[simp] theorem State.setOvf_esc (v : Bool) : (s.setOvf v).esc = s.esc := rfl
@[simp] theorem State.setOvf_ovf (v : Bool) : (s.setOvf v).ovf = v := rfl
@[simp] theorem State.setOvf_cap (v : Bool) : (s.setOvf v).cap = s.cap := rfl
@[simp] theorem State.setOvf_lenBase (v : Bool) : (s.setOvf v).lenBase = s.lenBase := rfl
@[simp] theorem State.setOvf_cfgCap (v : Bool) : (s.setOvf v).cfgCap = s.cfgCap := rfl
@[simp] theorem State.setOvf_cfgLenBase (v : Bool) : (s.setOvf v).cfgLenBase = s.cfgLenBase := rfl
@[simp] theorem State.setOvf_input (v : Bool) : (s.setOvf v).input = s.input := rfl
@[simp] theorem State.setOvf_rxEv (v : Bool) : (s.setOvf v).rxEv = s.rxEv := rfl
@[simp] theorem State.setOvf_txOut (v : Bool) : (s.setOvf v).txOut = s.txOut := rfl
@[simp] theorem State.setOvf_answers (v : Bool) : (s.setOvf v).answers = s.answers := rfl

@[simp] theorem State.setCur_acc (n : Nat) : (s.setCur n).acc = s.acc := rfl
@[simp] theorem State.setCur_cur (n : Nat) : (s.setCur n).cur = n := rfl
@[simp] theorem State.setCur_esc (n : Nat) : (s.setCur n).esc = s.esc := rfl
@[simp] theorem State.setCur_ovf (n : Nat) : (s.setCur n).ovf = s.ovf := rfl
@[simp] theorem State.setCur_cap (n : Nat) : (s.setCur n).cap = s.cap := rfl
@[simp] theorem State.setCur_lenBase (n : Nat) : (s.setCur n).lenBase = s.lenBase := rfl
@[simp] theorem State.setCur_cfgCap (n : Nat) : (s.setCur n).cfgCap = s.cfgCap := rfl
@[simp] theorem State.setCur_cfgLenBase (n : Nat) : (s.setCur n).cfgLenBase = s.cfgLenBase := rfl
@[simp] theorem State.setCur_input (n : Nat) : (s.setCur n).input = s.input := rfl
@[simp] theorem State.setCur_rxEv (n : Nat) : (s.setCur n).rxEv = s.rxEv := rfl
@[simp] theorem State.setCur_txOut (n : Nat) : (s.setCur n).txOut = s.txOut := rfl
@[simp] theorem State.setCur_answers (n : Nat) : (s.setCur n).answers = s.answers := rfl

@[simp] theorem State.emitEvent_acc (e : Event) : (s.emitEvent e).acc = s.acc := rfl
@[simp] theorem State.emitEvent_cur (e : Event) : (s.emitEvent e).cur = s.cur := rfl
@[simp] theorem State.emitEvent_esc (e : Event) : (s.emitEvent e).esc = s.esc := rfl
@[simp] theorem State.emitEvent_ovf (e : Event) : (s.emitEvent e).ovf = s.ovf := rfl
@[simp] theorem State.emitEvent_cap (e : Event) : (s.emitEvent e).cap = s.cap := rfl
@[simp] theorem State.emitEvent_lenBase (e : Event) : (s.emitEvent e).lenBase = s.lenBase := rfl
@[simp] theorem State.emitEvent_cfgCap (e : Event) : (s.emitEvent e).cfgCap = s.cfgCap := rfl
@[simp] theorem State.emitEvent_cfgLenBase (e : Event) : (s.emitEvent e).cfgLenBase = s.cfgLenBase := rfl
@[simp] theorem State.emitEvent_input (e : Event) : (s.emitEvent e).input = s.input := rfl
@[simp] theorem State.emitEvent_rxEv (e : Event) : (s.emitEvent e).rxEv = s.rxEv ++ [e] := rfl
@[simp] theorem State.emitEvent_txOut (e : Event) : (s.emitEvent e).txOut = s.txOut := rfl
@[simp] theorem State.emitEvent_answers (e : Event) : (s.emitEvent e).answers = s.answers := rfl

@[simp] theorem State.putTx_acc (out : List Byte) : (s.putTx out).acc = s.acc := rfl
@[simp] theorem State.putTx_cur (out : List Byte) : (s.putTx out).cur = s.cur := rfl
@[simp] theorem State.putTx_esc (out : List Byte) : (s.putTx out).esc = s.esc := rfl
@[simp] theorem State.putTx_ovf (out : List Byte) : (s.putTx out).ovf = s.ovf := rfl
@[simp] theorem State.putTx_cap (out : List Byte) : (s.putTx out).cap = s.cap := rfl
@[simp] theorem State.putTx_lenBase (out : List Byte) : (s.putTx out).lenBase = s.lenBase := rfl
@[simp] theorem State.putTx_cfgCap (out : List Byte) : (s.putTx out).cfgCap = s.cfgCap := rfl
@[simp] theorem State.putTx_cfgLenBase (out : List Byte) : (s.putTx out).cfgLenBase = s.cfgLenBase := rfl
@[simp] theorem State.putTx_input (out : List Byte) : (s.putTx out).input = s.input := rfl
@[simp] theorem State.putTx_rxEv (out : List Byte) : (s.putTx out).rxEv = s.rxEv := rfl
@[simp] theorem State.putTx_txOut (out : List Byte) : (s.putTx out).txOut = s.txOut ++ out := rfl
@[simp] theorem State.putTx_answers (out : List Byte) : (s.putTx out).answers = s.answers := rfl

@[simp] theorem State.answer_acc (a : Answer) : (s.answer a).acc = s.acc := rfl
@[simp] theorem State.answer_cur (a : Answer) : (s.answer a).cur = s.cur := rfl
@[simp] theorem State.answer_esc (a : Answer) : (s.answer a).esc = s.esc := rfl
@[simp] theorem State.answer_ovf (a : Answer) : (s.answer a).ovf = s.ovf := rfl
@[simp] theorem State.answer_cap (a : Answer) : (s.answer a).cap = s.cap := rfl
@[simp] theorem State.answer_lenBase (a : Answer) : (s.answer a).lenBase = s.lenBase := rfl
@[simp] theorem State.answer_cfgCap (a : Answer) : (s.answer a).cfgCap = s.cfgCap := rfl
@[simp] theorem State.answer_cfgLenBase (a : Answer) : (s.answer a).cfgLenBase = s.cfgLenBase := rfl
@[simp] theorem State.answer_input (a : Answer) : (s.answer a).input = s.input := rfl
@[simp] theorem State.answer_rxEv (a : Answer) : (s.answer a).rxEv = s.rxEv := rfl
@[simp] theorem State.answer_txOut (a : Answer) : (s.answer a).txOut = s.txOut := rfl
@[simp] theorem State.answer_answers (a : Answer) : (s.answer a).answers = s.answers ++ [a] := rfl

@[simp] theorem State.raise_acc (k : ErrorKind) : (s.raise k).acc = s.acc := rfl
@[simp] theorem State.raise_cur (k : ErrorKind) : (s.raise k).cur = s.cur := rfl
@[simp] theorem State.raise_esc (k : ErrorKind) : (s.raise k).esc = s.esc := rfl
@[simp] theorem State.raise_ovf (k : ErrorKind) : (s.raise k).ovf = s.ovf := rfl
@[simp] theorem State.raise_cap (k : ErrorKind) : (s.raise k).cap = s.cap := rfl
@[simp] theorem State.raise_lenBase (k : ErrorKind) : (s.raise k).lenBase = s.lenBase := rfl
@[simp] theorem State.raise_cfgCap (k : ErrorKind) : (s.raise k).cfgCap = s.cfgCap := rfl
@[simp] theorem State.raise_cfgLenBase (k : ErrorKind) : (s.raise k).cfgLenBase = s.cfgLenBase := rfl
@[simp] theorem State.raise_input (k : ErrorKind) : (s.raise k).input = s.input := rfl
@[simp] theorem State.raise_rxEv (k : ErrorKind) : (s.raise k).rxEv = s.rxEv ++ [.err k] := rfl
@[simp] theorem State.raise_txOut (k : ErrorKind) : (s.raise k).txOut = s.txOut := rfl
@[simp] theorem State.raise_answers (k : ErrorKind) : (s.raise k).answers = s.answers := rfl

@[simp] theorem State.overflow_acc : (s.overflow).acc = s.acc := rfl
@[simp] theorem State.overflow_cur : (s.overflow).cur = s.cur := rfl
@[simp] theorem State.overflow_esc : (s.overflow).esc = s.esc := rfl
@[simp] theorem State.overflow_ovf : (s.overflow).ovf = true := rfl
@[simp] theorem State.overflow_cap : (s.overflow).cap = s.cap := rfl
@[simp] theorem State.overflow_lenBase : (s.overflow).lenBase = s.lenBase := rfl
@[simp] theorem State.overflow_cfgCap : (s.overflow).cfgCap = s.cfgCap := rfl
@[simp] theorem State.overflow_cfgLenBase : (s.overflow).cfgLenBase = s.cfgLenBase := rfl
@[simp] theorem State.overflow_input : (s.overflow).input = s.input := rfl
@[simp] theorem State.overflow_rxEv : (s.overflow).rxEv = s.rxEv ++ [.err .framingOverflow] := rfl
@[simp] theorem State.overflow_txOut : (s.overflow).txOut = s.txOut := rfl
@[simp] theorem State.overflow_answers : (s.overflow).answers = s.answers := rfl

@[simp] theorem State.resync_acc : (s.resync).acc = s.acc := rfl
@[simp] theorem State.resync_cur : (s.resync).cur = 0 := rfl
@[simp] theorem State.resync_esc : (s.resync).esc = s.esc := rfl
@[simp] theorem State.resync_ovf : (s.resync).ovf = false := rfl
@[simp] theorem State.resync_cap : (s.resync).cap = s.cap := rfl
@[simp] theorem State.resync_lenBase : (s.resync).lenBase = s.lenBase := rfl
@[simp] theorem State.resync_cfgCap : (s.resync).cfgCap = s.cfgCap := rfl
@[simp] theorem State.resync_cfgLenBase : (s.resync).cfgLenBase = s.cfgLenBase := rfl
@[simp] theorem State.resync_input : (s.resync).input = s.input := rfl
@[simp] theorem State.resync_rxEv : (s.resync).rxEv = s.rxEv := rfl
@[simp] theorem State.resync_txOut : (s.resync).txOut = s.txOut := rfl
@[simp] theorem State.resync_answers : (s.resync).answers = s.answers := rfl

@[simp] theorem State.sampleCfg_acc : (s.sampleCfg).acc = Memory.below s.cfgCap s.acc := rfl
@[simp] theorem State.sampleCfg_cur : (s.sampleCfg).cur = s.cur := rfl
@[simp] theorem State.sampleCfg_esc : (s.sampleCfg).esc = s.esc := rfl
@[simp] theorem State.sampleCfg_ovf : (s.sampleCfg).ovf = s.ovf := rfl
@[simp] theorem State.sampleCfg_cap : (s.sampleCfg).cap = s.cfgCap := rfl
@[simp] theorem State.sampleCfg_lenBase : (s.sampleCfg).lenBase = s.cfgLenBase := rfl
@[simp] theorem State.sampleCfg_cfgCap : (s.sampleCfg).cfgCap = s.cfgCap := rfl
@[simp] theorem State.sampleCfg_cfgLenBase : (s.sampleCfg).cfgLenBase = s.cfgLenBase := rfl
@[simp] theorem State.sampleCfg_input : (s.sampleCfg).input = s.input := rfl
@[simp] theorem State.sampleCfg_rxEv : (s.sampleCfg).rxEv = s.rxEv := rfl
@[simp] theorem State.sampleCfg_txOut : (s.sampleCfg).txOut = s.txOut := rfl
@[simp] theorem State.sampleCfg_answers : (s.sampleCfg).answers = s.answers := rfl

@[simp] theorem State.restart_acc : (s.restart).acc = Memory.below s.cfgCap s.acc := rfl
@[simp] theorem State.restart_cur : (s.restart).cur = 0 := rfl
@[simp] theorem State.restart_esc : (s.restart).esc = false := rfl
@[simp] theorem State.restart_ovf : (s.restart).ovf = false := rfl
@[simp] theorem State.restart_cap : (s.restart).cap = s.cfgCap := rfl
@[simp] theorem State.restart_lenBase : (s.restart).lenBase = s.cfgLenBase := rfl
@[simp] theorem State.restart_cfgCap : (s.restart).cfgCap = s.cfgCap := rfl
@[simp] theorem State.restart_cfgLenBase : (s.restart).cfgLenBase = s.cfgLenBase := rfl
@[simp] theorem State.restart_input : (s.restart).input = s.input := rfl
@[simp] theorem State.restart_rxEv : (s.restart).rxEv = s.rxEv := rfl
@[simp] theorem State.restart_txOut : (s.restart).txOut = s.txOut := rfl
@[simp] theorem State.restart_answers : (s.restart).answers = s.answers := rfl

end Sys2Proof.Machine
end

