-- ==== Sys2Proof/Laws/Deframer.lean ====
section
/-! SUPPORT. Everything the deframer's shared operations can do: what each answers in each case, and from
`next` back to the case. Proofs cite these and do not unfold the operations. -/

namespace Sys2Proof.Machine

variable {s t : State} {d : Delivery} {v b : Byte}

/-! ## Sequencing -/

@[simp] theorem thenDo_next (s : State) (k : State → Host.Outcome State Fault Refusal) :
    thenDo (.next s) k = k s := rfl

@[simp] theorem thenDo_fault (f : Fault) (k : State → Host.Outcome State Fault Refusal) :
    thenDo (.fault f) k = .fault f := rfl

@[simp] theorem thenDo_refused (x : Refusal) (k : State → Host.Outcome State Fault Refusal) :
    thenDo (.refused x) k = .refused x := rfl

theorem thenDo_eq_next {r : Host.Outcome State Fault Refusal}
    {k : State → Host.Outcome State Fault Refusal} (h : thenDo r k = .next t) :
    ∃ u, r = .next u ∧ k u = .next t := by
  cases r with
  | next u => exact ⟨u, rfl, h⟩
  | fault f => exact absurd h (by simp)
  | refused x => exact absurd h (by simp)

theorem thenDo_assoc (r : Host.Outcome State Fault Refusal)
    (k l : State → Host.Outcome State Fault Refusal) :
    thenDo (thenDo r k) l = thenDo r fun u => thenDo (k u) l := by cases r <;> rfl

/-! ## APPEND (R88 to R90) -/

/-- The state with `v` stored at the cursor and the cursor advanced. -/
def State.storeNext (v : Byte) (s : State) : State :=
  { s with acc := Memory.write s.acc s.cur v, cur := s.cur + 1 }

theorem appendByte_discard (h : s.ovf = true) : appendByte v s = .next s := by
  simp [appendByte, h]

theorem appendByte_full (h : s.ovf = false) (hc : s.cur = s.cap) :
    appendByte v s = .next s.overflow := by simp [appendByte, h, hc]

theorem appendByte_room (h : s.ovf = false) (hc : s.cur < s.cap) :
    appendByte v s = .next (s.storeNext v) := by
  simp [appendByte, h, Nat.ne_of_lt hc, State.accStore, hc, State.setCur, State.storeNext]

/-- All that APPEND can do when it goes on. -/
theorem appendByte_cases (h : appendByte v s = .next t) :
    (s.ovf = true ∧ t = s) ∨ (s.ovf = false ∧ s.cur = s.cap ∧ t = s.overflow) ∨
    (s.ovf = false ∧ s.cur < s.cap ∧ t = s.storeNext v) := by
  cases ho : s.ovf with
  | true => exact .inl ⟨rfl, by simpa [appendByte_discard ho] using h.symm⟩
  | false =>
    rcases Nat.lt_trichotomy s.cur s.cap with hlt | heq | hgt
    · exact .inr (.inr ⟨rfl, hlt, by simpa [appendByte_room ho hlt] using h.symm⟩)
    · exact .inr (.inl ⟨rfl, heq, by simpa [appendByte_full ho heq] using h.symm⟩)
    · simp [appendByte, ho, Nat.ne_of_gt hgt, State.accStore, Nat.not_lt_of_gt hgt] at h

theorem appendByte_completes (hc : s.cur ≤ s.cap) : ∃ t, appendByte v s = .next t := by
  cases ho : s.ovf with
  | true => exact ⟨_, appendByte_discard ho⟩
  | false =>
    rcases hc.lt_or_eq with hlt | heq
    · exact ⟨_, appendByte_room ho hlt⟩
    · exact ⟨_, appendByte_full ho heq⟩

/-- APPEND never refuses, and faults only outside ACC. -/
theorem appendByte_stop : (∃ t, appendByte v s = .next t) ∨
    (s.cap < s.cur ∧ appendByte v s = .fault .accOutOfRange) := by
  by_cases hc : s.cur ≤ s.cap
  · exact .inl (appendByte_completes hc)
  · cases ho : s.ovf with
    | true => exact .inl ⟨_, appendByte_discard ho⟩
    | false =>
      have : ¬s.cur < s.cap := by omega
      have hne : s.cur ≠ s.cap := by omega
      exact .inr ⟨by omega, by simp [appendByte, ho, hne, State.accStore, this]⟩

/-! ## EMIT and the delimiter (R86, R91) -/

/-- The state after the packet in `acc` is handed on. -/
def State.handOn (d : Delivery) (s : State) : State :=
  (s.setCur 0).emitEvent (deliveryEvent d s.lenBase (s.accCopy s.cur))

theorem emitPacket_next (d : Delivery) (hc : s.cur ≤ s.cap) :
    emitPacket d s = .next (s.handOn d) := by simp [emitPacket, hc, State.handOn]

theorem emitPacket_cases (h : emitPacket d s = .next t) : s.cur ≤ s.cap ∧ t = s.handOn d := by
  by_cases hc : s.cur ≤ s.cap
  · exact ⟨hc, by simpa [emitPacket_next d hc] using h.symm⟩
  · simp [emitPacket, hc] at h

theorem delimiter_discard (d : Delivery) (h : s.ovf = true) :
    delimiter d s = .next s.resync := by simp [delimiter, h]

theorem delimiter_idle (d : Delivery) (h : s.ovf = false) (hc : s.cur = 0) :
    delimiter d s = .next s := by simp [delimiter, h, hc]

theorem delimiter_packet (d : Delivery) (h : s.ovf = false) (h0 : 0 < s.cur) (hc : s.cur ≤ s.cap) :
    delimiter d s = .next (s.handOn d) := by simp [delimiter, h, h0, emitPacket_next d hc]

/-- All that RX.DELIM can do when it goes on. -/
theorem delimiter_cases (h : delimiter d s = .next t) :
    (s.ovf = true ∧ t = s.resync) ∨ (s.ovf = false ∧ s.cur = 0 ∧ t = s) ∨
    (s.ovf = false ∧ 0 < s.cur ∧ s.cur ≤ s.cap ∧ t = s.handOn d) := by
  cases ho : s.ovf with
  | true => exact .inl ⟨rfl, by simpa [delimiter_discard d ho] using h.symm⟩
  | false =>
    rcases Nat.eq_zero_or_pos s.cur with h0 | h0
    · exact .inr (.inl ⟨rfl, h0, by simpa [delimiter_idle d ho h0] using h.symm⟩)
    · simp only [delimiter, ho, h0, if_true] at h
      obtain ⟨hc, rfl⟩ := emitPacket_cases (by simpa using h)
      exact .inr (.inr ⟨rfl, h0, hc, rfl⟩)

theorem delimiter_completes (d : Delivery) (hc : s.cur ≤ s.cap) : ∃ t, delimiter d s = .next t := by
  cases ho : s.ovf with
  | true => exact ⟨_, delimiter_discard d ho⟩
  | false =>
    rcases Nat.eq_zero_or_pos s.cur with h0 | h0
    · exact ⟨_, delimiter_idle d ho h0⟩
    · exact ⟨_, delimiter_packet d ho h0 hc⟩

/-! ## STEP (R81) -/

/-- STEP with `esc = 1` is one form: clear `esc`, append the un-escaped byte (R84 item 3). -/
theorem stepByte_escaped (d : Delivery) (b : Byte) (h : s.esc = true) :
    stepByte d b s = appendByte (unsub b) (s.setEsc false) := by
  unfold stepByte unsub appendUnescaped
  rw [if_pos h]
  split
  · rfl
  · split <;> rfl

theorem stepByte_esc (d : Delivery) (h : s.esc = false) :
    stepByte d Config.esc s = .next (s.setEsc true) := by simp [stepByte, h]

theorem stepByte_delim (d : Delivery) (h : s.esc = false) :
    stepByte d Config.delim s = delimiter d s := by
  have : Config.delim ≠ Config.esc := by decide
  simp [stepByte, h, this]

theorem stepByte_data (d : Delivery) (h : s.esc = false) (h1 : b ≠ Config.esc)
    (h2 : b ≠ Config.delim) : stepByte d b s = appendByte b s := by simp [stepByte, h, h1, h2]

/-- The four ways a byte is read. -/
theorem stepByte_forms (d : Delivery) (b : Byte) (s : State) :
    (s.esc = true ∧ stepByte d b s = appendByte (unsub b) (s.setEsc false)) ∨
    (s.esc = false ∧ b = Config.esc ∧ stepByte d b s = .next (s.setEsc true)) ∨
    (s.esc = false ∧ b = Config.delim ∧ stepByte d b s = delimiter d s) ∨
    (s.esc = false ∧ b ≠ Config.esc ∧ b ≠ Config.delim ∧ stepByte d b s = appendByte b s) := by
  cases h : s.esc with
  | true => exact .inl ⟨rfl, stepByte_escaped d b h⟩
  | false =>
    by_cases h1 : b = Config.esc
    · subst h1; exact .inr (.inl ⟨rfl, rfl, stepByte_esc d h⟩)
    · by_cases h2 : b = Config.delim
      · subst h2; exact .inr (.inr (.inl ⟨rfl, rfl, stepByte_delim d h⟩))
      · exact .inr (.inr (.inr ⟨rfl, h1, h2, stepByte_data d h h1 h2⟩))

theorem stepByte_completes (d : Delivery) (b : Byte) (hc : s.cur ≤ s.cap) :
    ∃ t, stepByte d b s = .next t := by
  rcases stepByte_forms d b s with ⟨-, h⟩ | ⟨-, -, h⟩ | ⟨-, -, h⟩ | ⟨-, -, -, h⟩ <;> rw [h]
  · exact appendByte_completes (by simpa using hc)
  · exact ⟨_, rfl⟩
  · exact delimiter_completes d hc
  · exact appendByte_completes hc

/-! ## FEED (R80) -/

@[simp] theorem feedBytes_nil (d : Delivery) (s : State) : feedBytes d [] s = .next s := rfl

@[simp] theorem feedBytes_cons (d : Delivery) (b : Byte) (c : List Byte) (s : State) :
    feedBytes d (b :: c) s = thenDo (stepByte d b s) (feedBytes d c) := rfl

/-- What every STEP keeps, FEED keeps. -/
theorem feedBytes_keeps {P : State → Prop}
    (hstep : ∀ b s t, P s → stepByte d b s = .next t → P t) :
    ∀ (c : List Byte) (s t : State), P s → feedBytes d c s = .next t → P t := by
  intro c
  induction c with
  | nil => intro s t hs h; simpa using (by simpa using h : s = t) ▸ hs
  | cons b c ih =>
    intro s t hs h
    obtain ⟨u, h1, h2⟩ := thenDo_eq_next h
    exact ih u t (hstep b s u hs h1) h2

end Sys2Proof.Machine
end

