-- ==== Sys2Proof/Laws/Framer.lean ====
section
/-! SUPPORT. The substitution maps and the encapsulated stream (R50, R51, R56). -/

namespace Sys2Proof.Machine

theorem escapeByte_delim : escapeByte Config.delim = [Config.esc, Config.escDelim] := rfl

theorem escapeByte_esc : escapeByte Config.esc = [Config.esc, Config.escEsc] := by decide

theorem escapeByte_lit {b : Byte} (h1 : b ≠ Config.delim) (h2 : b ≠ Config.esc) :
    escapeByte b = [b] := by simp [escapeByte, h1, h2]

/-- The three shapes of an escaped byte (R54). -/
theorem escapeByte_cases (b : Byte) :
    (b = Config.delim ∧ escapeByte b = [Config.esc, Config.escDelim]) ∨
    (b = Config.esc ∧ escapeByte b = [Config.esc, Config.escEsc]) ∨
    (b ≠ Config.delim ∧ b ≠ Config.esc ∧ escapeByte b = [b]) := by
  by_cases h1 : b = Config.delim
  · exact .inl ⟨h1, h1 ▸ escapeByte_delim⟩
  · by_cases h2 : b = Config.esc
    · exact .inr (.inl ⟨h2, h2 ▸ escapeByte_esc⟩)
    · exact .inr (.inr ⟨h1, h2, escapeByte_lit h1 h2⟩)

@[simp] theorem unsub_escDelim : unsub Config.escDelim = Config.delim := rfl

@[simp] theorem unsub_escEsc : unsub Config.escEsc = Config.esc := by decide

@[simp] theorem encapBytes_nil : encapBytes [] = [Config.delim, Config.delim] := rfl

theorem delim_not_mem_escapeByte (b : Byte) : Config.delim ∉ escapeByte b := by
  rcases escapeByte_cases b with ⟨-, h⟩ | ⟨-, h⟩ | ⟨h1, -, h⟩ <;> rw [h]
  · decide
  · decide
  · simpa using h1.symm

end Sys2Proof.Machine
end

