-- ==== Sys2Proof/Laws/PerInstr.lean ====
section
/-! SUPPORT. What holds of every operation as syntax, one lemma for each constructor: the encoding of a
well-formed byte form fits its own row of the opcode table, and an operation without a bit pattern is
encoded as a request (spec/30_encoding.md R53, R54, R63). -/

namespace Sys2Proof.Laws

/-- An encoding fits a row: a word that the row accepts, or a request where there is no row. -/
def fitsRow : Option OpcodeRow → Encoded → Bool
  | some r, .word bytes => r.accepts (wordNumber bytes)
  | none, .request _ => true
  | some _, .request _ => false
  | none, .word _ => false

/-- The encoding fits the table. -/
def FitsItsRow.Statement (i : Instr) : Prop := i.wf = true → fitsRow (opcodeRow i) (encode i) = true

theorem FitsItsRow.rxEscD : FitsItsRow.Statement .rxEscD := fun _ => by decide

theorem FitsItsRow.rxEscE : FitsItsRow.Statement .rxEscE := fun _ => by decide

theorem FitsItsRow.rxEscV (v : Byte) : FitsItsRow.Statement (.rxEscV v) := by
  revert v; unfold FitsItsRow.Statement; decide

theorem FitsItsRow.rxEsc : FitsItsRow.Statement .rxEsc := fun _ => by decide

theorem FitsItsRow.rxDelim : FitsItsRow.Statement .rxDelim := fun _ => by decide

theorem FitsItsRow.rxData (v : Byte) : FitsItsRow.Statement (.rxData v) := by
  revert v; unfold FitsItsRow.Statement; decide

theorem FitsItsRow.txSubD : FitsItsRow.Statement .txSubD := fun _ => by decide

theorem FitsItsRow.txSubE : FitsItsRow.Statement .txSubE := fun _ => by decide

theorem FitsItsRow.txLit (v : Byte) : FitsItsRow.Statement (.txLit v) := by
  revert v; unfold FitsItsRow.Statement; decide

theorem FitsItsRow.encap (p : List Byte) : FitsItsRow.Statement (.encap p) := fun _ => rfl

theorem FitsItsRow.feed (c : List Byte) : FitsItsRow.Statement (.feed c) := fun _ => rfl

theorem FitsItsRow.step (b : Byte) : FitsItsRow.Statement (.step b) := fun _ => rfl

theorem FitsItsRow.append (v : Byte) : FitsItsRow.Statement (.append v) := fun _ => rfl

theorem FitsItsRow.emit : FitsItsRow.Statement .emit := fun _ => rfl

theorem FitsItsRow.csum (buf : List Byte) (len : Nat) : FitsItsRow.Statement (.csum buf len) :=
  fun _ => rfl

theorem FitsItsRow.sealPkt (hp : List Byte) : FitsItsRow.Statement (.sealPkt hp) := fun _ => rfl

theorem FitsItsRow.validate (p : List Byte) : FitsItsRow.Statement (.validate p) := fun _ => rfl

theorem FitsItsRow.ingest (c : List Byte) : FitsItsRow.Statement (.ingest c) := fun _ => rfl

theorem FitsItsRow.decode (s : List Byte) : FitsItsRow.Statement (.decode s) := fun _ => rfl

theorem FitsItsRow.reset : FitsItsRow.Statement .reset := fun _ => rfl

theorem FitsItsRow.config (cap lenBase : Nat) : FitsItsRow.Statement (.config cap lenBase) :=
  fun _ => rfl

end Sys2Proof.Laws
end

