-- ==== Sys2Proof/Tests/Slice0.lean ====
section
/-! SUPPORT. The model's own tests. Expected results are the spec's: the opcode table, the worked examples of
the rules, and the vectors of spec/95_test_vectors.md, each named in its comment. Then a witness for every
statement that has hypotheses. -/

namespace Sys2Proof.Tests

open Sys2Proof Sys2Proof.Machine Sys2Proof.Reference

/-! ## Helpers -/

/-- A state with the given accumulator bytes, all of them before the cursor. -/
def at_ (cap : Nat) (esc ovf : Bool) (bytes : List Byte) : State :=
  { State.powerOn cap 7 with
    acc := ((List.range bytes.length).zip bytes).filter fun c => c.2 != 0
    cur := bytes.length
    esc := esc
    ovf := ovf }

/-- `cur`, `esc`, `ovf` and `acc[0..cur)` after a step, as the spec writes a state (R61). -/
def regs : Host.Outcome State Fault Refusal → Option (Nat × Bool × Bool × List Byte)
  | .next t => some (t.cur, t.esc, t.ovf, contents t)
  | .fault _ => none
  | .refused _ => none

def events : Host.Outcome State Fault Refusal → Option (List Event)
  | .next t => some t.rxEv
  | .fault _ => none
  | .refused _ => none

def sent : Host.Outcome State Fault Refusal → Option (List Byte)
  | .next t => some t.txOut
  | .fault _ => none
  | .refused _ => none

def answered : Host.Outcome State Fault Refusal → Option (List Answer)
  | .next t => some t.answers
  | .fault _ => none
  | .refused _ => none

def params : Host.Outcome State Fault Refusal → Option (Nat × Nat × Nat × Nat)
  | .next t => some (t.cap, t.lenBase, t.cfgCap, t.cfgLenBase)
  | .fault _ => none
  | .refused _ => none

def refusal : Host.Outcome State Fault Refusal → Option Refusal
  | .next _ => none
  | .fault _ => none
  | .refused x => some x

/-! ## Well-formedness refuses each ill-formed term (R53, R54) -/

theorem test_wf_rxEscV : Instr.wf (.rxEscV 0xDC) = false ∧ Instr.wf (.rxEscV 0xDD) = false ∧
    Instr.wf (.rxEscV 0xC0) = true := by decide
theorem test_wf_rxData : Instr.wf (.rxData 0xDB) = false ∧ Instr.wf (.rxData 0xC0) = false ∧
    Instr.wf (.rxData 0xDC) = true := by decide
theorem test_wf_txLit : Instr.wf (.txLit 0xC0) = false ∧ Instr.wf (.txLit 0xDB) = false ∧
    Instr.wf (.txLit 0xDD) = true := by decide

/-! ## Decoding: the table's `encoding` column bit by bit, and the `selected by` column of R63 -/

theorem test_decode_rxEscD : decodeTableWord 16 0b1_11011100 = some .rxEscD := by decide
theorem test_decode_rxEscE : decodeTableWord 16 0b1_11011101 = some .rxEscE := by decide
theorem test_decode_rxEscV : decodeTableWord 16 0b1_01000001 = some (.rxEscV 0x41) := by decide
theorem test_decode_rxEsc : decodeTableWord 16 0b0_11011011 = some .rxEsc := by decide
theorem test_decode_rxDelim : decodeTableWord 16 0b0_11000000 = some .rxDelim := by decide
theorem test_decode_rxData : decodeTableWord 16 0b0_11011101 = some (.rxData 0xDD) := by decide
theorem test_decode_txSubD : decodeTableWord 8 0b11000000 = some .txSubD := by decide
theorem test_decode_txSubE : decodeTableWord 8 0b11011011 = some .txSubE := by decide
theorem test_decode_txLit : decodeTableWord 8 0b11111111 = some (.txLit 0xFF) := by decide
theorem test_decode_ports :
    [Sys2Proof.decode (.request (.txIn [0x41])), Sys2Proof.decode (.request (.rxChunk [0xC0])),
      Sys2Proof.decode (.request (.rxByte 0x41)), Sys2Proof.decode (.request (.ingestCall [0xC0])),
      Sys2Proof.decode (.request (.decodeCall [0xC0])), Sys2Proof.decode (.request .rst),
      Sys2Proof.decode (.request (.cfg 8 7))] =
    [.instr (.encap [0x41]), .instr (.feed [0xC0]), .instr (.step 0x41), .instr (.ingest [0xC0]),
      .instr (.decode [0xC0]), .instr .reset, .instr (.config 8 7)] := by decide
theorem test_decode_calls :
    [Sys2Proof.decode (.request (.appendCall 0x41)), Sys2Proof.decode (.request .emitCall),
      Sys2Proof.decode (.request (.csumCall [1, 2] 1)), Sys2Proof.decode (.request (.sealCall [1])),
      Sys2Proof.decode (.request (.validateCall [1]))] =
    [.instr (.append 0x41), .instr .emit, .instr (.csum [1, 2] 1), .instr (.sealPkt [1]),
      .instr (.validate [1])] := by decide
theorem test_decode_rejects : Sys2Proof.decode (.word [0xDC, 2]) = .rejected .reservedBits ∧
    Sys2Proof.decode (.word []) = .rejected .noBytes ∧
    Sys2Proof.decode (.word [1, 0, 0]) = .rejected .tooManyBytes ∧
    decodeTableWord 16 0x3DC = none := by decide

/-- A table word placed by `withFetchWord` is the first operation after reset. -/
theorem test_fetch_first : regs (step (State.reset.withFetchWord 16 0x1DC)) = some (1, false, false, [0xC0]) ∧
    sent (step (State.reset.withFetchWord 8 0xDB)) = some [0xDB, 0xDD] := by decide

/-! ## The receive forms: the examples of R80 to R91 -/

theorem test_rxEscD : regs (exec .rxEscD (at_ 8 true false [0x41])) =
    some (2, false, false, [0x41, 0xC0]) := by decide
theorem test_rxEscE : regs (exec .rxEscE (at_ 8 true false [])) = some (1, false, false, [0xDB]) := by decide
theorem test_rxEscV : regs (exec (.rxEscV 0xC0) (at_ 8 true false [0x41])) =
    some (2, false, false, [0x41, 0xC0]) := by decide
theorem test_rxEsc : regs (exec .rxEsc (at_ 8 false false [0x41])) = some (1, true, false, [0x41]) := by decide
theorem test_rxDelim_short : regs (exec .rxDelim (at_ 8 false false [0x41, 0x42])) =
      some (0, false, false, []) ∧
    events (exec .rxDelim (at_ 8 false false [0x41, 0x42])) = some [.err .lengthMismatch] := by decide
theorem test_rxDelim_discard : regs (exec .rxDelim (at_ 4 false true [1, 2, 3, 4])) =
      some (0, false, false, []) ∧
    events (exec .rxDelim (at_ 4 false true [1, 2, 3, 4])) = some [] := by decide
theorem test_rxData : regs (exec (.rxData 0x41) (at_ 8 false false [])) =
    some (1, false, false, [0x41]) := by decide
theorem test_append_overflow :
    regs (exec (.append 0xFE) (at_ 8 false false [0x0D, 3, 0, 2, 0, 0xAA, 0xBB, 0x89])) =
      some (8, false, true, [0x0D, 3, 0, 2, 0, 0xAA, 0xBB, 0x89]) ∧
    events (exec (.append 0xFE) (at_ 8 false false [0x0D, 3, 0, 2, 0, 0xAA, 0xBB, 0x89])) =
      some [.err .framingOverflow] := by decide
theorem test_append_last_cell : regs (exec (.append 0) (at_ 2 false false [0x41])) =
    some (2, false, false, [0x41, 0]) := by decide
-- V1 as accumulator contents
theorem test_emit_valid : events (exec .emit (at_ 8 false false [0x0D, 1, 0, 0, 0, 0xF2, 0xFF])) =
    some [.pkt [0x0D, 1, 0, 0, 0, 0xF2, 0xFF]] := by decide
theorem test_emit_refused : refusal (exec .emit (at_ 8 false true [1])) = some .emitNotDue := by decide
-- X7: the second DB of DB DB does not set esc
theorem test_step_escaped_esc : regs (exec (.step 0xDB) (at_ 8 true false [])) =
    some (1, false, false, [0xDB]) := by decide
-- R80
theorem test_feed_partial : regs (exec (.feed [0xC0, 0x41, 0xDB]) (at_ 8 false false [])) =
    some (1, true, false, [0x41]) := by decide
-- R90, CAP = 8
theorem test_feed_overflow_recovery :
    events (exec (.feed [0xC0, 0x0D, 3, 0, 2, 0, 0xAA, 0xBB, 0x89, 0xFE, 0xC0, 0xC0, 0x0D, 4, 0, 0, 0, 0xEF,
      0xFF, 0xC0]) (at_ 8 false false [])) =
      some [.err .framingOverflow, .pkt [0x0D, 4, 0, 0, 0, 0xEF, 0xFF]] := by decide

/-! ## The transmit side: E3 to E8 -/

theorem test_txSubD : sent (exec .txSubD State.reset) = some [0xDB, 0xDC] := by decide
theorem test_txSubE : sent (exec .txSubE State.reset) = some [0xDB, 0xDD] := by decide
theorem test_txLit : sent (exec (.txLit 0xDC) State.reset) = some [0xDC] := by decide
-- E1, E8
theorem test_encap_empty : sent (exec (.encap []) State.reset) = some [0xC0, 0xC0] := by decide
theorem test_encap : sent (exec (.encap [0x1C, 5, 0, 3, 0, 0xDB, 0xC0, 0x11, 0x30, 0xFE]) State.reset) =
    some [0xC0, 0x1C, 5, 0, 3, 0, 0xDB, 0xDD, 0xDB, 0xDC, 0x11, 0x30, 0xFE, 0xC0] := by decide

/-! ## The checksum unit: K6, K12, L7, L8, V11, V20 -/

theorem test_csum_prefix : answered (exec (.csum [0x0D, 1, 0, 0, 0, 0xF2, 0xFF] 5) State.reset) =
    some [.csum 0xFFF2] := by decide
set_option maxRecDepth 4000 in
theorem test_csum_wraps : answered (exec (.csum (List.replicate 258 0xFF) 258) State.reset) =
    some [.csum 0xFF02] := by decide
theorem test_csum_refused : refusal (exec (.csum [1] 2) State.reset) = some .csumLengthBeyondBuffer := by decide
theorem test_seal : answered (exec (.sealPkt [0x21, 7, 0, 1, 0, 0x17]) State.reset) =
    some [.sealed [0x21, 7, 0, 1, 0, 0x17, 0xC0, 0xFF]] := by decide
theorem test_seal_empty : answered (exec (.sealPkt []) State.reset) = some [.sealed [0, 0]] := by decide
theorem test_validate_length_first : answered (exec (.validate [0x0D, 6, 0, 2, 0, 0x41, 0, 0]) State.reset) =
    some [.verdict (.err .lengthMismatch)] := by decide
theorem test_validate_lenBase :
    answered (exec (.validate [0x0D, 1, 0, 5, 0, 0xED, 0xFF]) (State.powerOn 8 2)) =
      some [.verdict .ok] := by decide

/-! ## The pipeline and the system operations: P2, P4, O4, X8, R122, R123 -/

theorem test_ingest_corrupt_then_good :
    events (exec (.ingest [0xC0, 0x0D, 1, 0, 0, 0, 0xF3, 0xFF, 0xC0, 0xC0, 7, 2, 0, 1, 0, 0xDB, 0xDC, 0x36, 0xFF,
      0xC0]) (at_ 32 false false [])) =
      some [.err .checksumMismatch, .pkt [7, 2, 0, 1, 0, 0xC0, 0x36, 0xFF]] := by decide
theorem test_ingest_noise :
    events (exec (.ingest [0x55, 0xAA, 0xC0, 0xC0, 0xC0, 0x0D, 5, 0, 1, 0, 0xDB, 0x41, 0xAC, 0xFF, 0xC0])
      (at_ 32 false false [])) =
      some [.err .lengthMismatch, .pkt [0x0D, 5, 0, 1, 0, 0x41, 0xAC, 0xFF]] := by decide
theorem test_decode_discard :
    events (exec (.decode [0xC0, 1, 2, 3, 4, 5, 0xDB, 0xC0, 6, 0xC0, 7, 0xC0]) (State.powerOn 4 7)) =
      some [.err .framingOverflow, .raw [7]] := by decide
theorem test_decode_double_escape : answered (exec (.decode [0xDB, 0xDB, 0xDC, 0xC0]) (State.powerOn 8 7)) =
    some [.packets [[0xDB, 0xDC]]] := by decide
theorem test_reset : regs (exec .reset (at_ 8 true false [0x0D, 1, 0])) = some (0, false, false, []) := by decide
theorem test_config_waits : params (exec (.config 9 2) (State.powerOn 8 7)) = some (8, 7, 9, 2) ∧
    params (thenDo (exec (.config 9 2) (State.powerOn 8 7)) (exec .reset)) = some (9, 2, 9, 2) := by decide
theorem test_config_zero : refusal (exec (.config 0 7) State.reset) = some .capZero := by decide

-- R130
theorem test_error_codes : [ErrorKind.framingOverflow, .lengthMismatch, .checksumMismatch].map ErrorKind.code =
    [1, 2, 3] := by decide

/-! ## Memory: the canonical form -/

theorem test_memory_canonical : Memory.write (Memory.write [(1, 5)] 0 7) 1 0 = [(0, 7)] ∧
    Memory.write [(0, 7)] 2 9 = [(0, 7), (2, 9)] ∧ Memory.wf State.reset.acc := by decide

/-! ## Witnesses: states and operands that meet the hypotheses of each statement

`room` is one cell short of full, `full` and `losing` have no room (`losing` is discarding); each comes with
`esc` set and clear. -/

def room (esc : Bool) : State := at_ 2 esc false [0x41]
def full (esc : Bool) : State := at_ 2 esc false [0x41, 0x42]
def losing (esc : Bool) : State := at_ 2 esc true [0x41, 0x42]
def between (cap : Nat) : State := at_ cap false false []

/-- What most statements ask of a state. -/
abbrev Fits (s : State) : Prop := Memory.wf s.acc ∧ s.cur ≤ s.cap

/-- V1, a packet that passes VALIDATE (R103). -/
def v1 : List Byte := [0x0D, 1, 0, 0, 0, 0xF2, 0xFF]

/-- A packet with two payload bytes that passes VALIDATE: SEAL of `0D 03 00 02 00 AA BB` (R90). -/
def v2 : List Byte := [0x0D, 3, 0, 2, 0, 0xAA, 0xBB, 0x89, 0xFE]

/-- One operation of each constructor. -/
def oneOfEach : List Instr :=
  [.rxEscD, .rxEscE, .rxEscV 0xC0, .rxEsc, .rxDelim, .rxData 0xDC, .txSubD, .txSubE, .txLit 0xDD] ++
  [.encap [0xC0], .feed [0xC0], .step 0xDB, .append 0, .emit, .csum [1, 2] 2, .sealPkt [1]] ++
  [.validate [1], .ingest [0xDB], .decode [0x41, 0xC0], .reset, .config 1 0]

def completes : Host.Outcome State Fault Refusal → Bool
  | .next _ => true
  | .fault _ => false
  | .refused _ => false

theorem next_of_completes {r : Host.Outcome State Fault Refusal} (h : completes r = true) :
    ∃ t, r = .next t := by
  cases r with
  | next t => exact ⟨t, rfl⟩
  | fault f => cases h
  | refused x => cases h

/-- Every constructor has an operation that completes: the hypothesis `exec i s = .next t`. -/
theorem witness_every_operation_completes :
    ∀ i ∈ oneOfEach, i.wf = true ∧ ∃ t, exec i (room true) = .next t := by
  have h : ∀ i ∈ oneOfEach, i.wf = true ∧ completes (exec i (room true)) = true := by decide
  exact fun i hi => ⟨(h i hi).1, next_of_completes (h i hi).2⟩

theorem inv_of {s : State} (ha : s.AccOk) (hc : s.CursorOk) (hg : s.ConfigOk) (he : s.rxEv = []) : s.Inv :=
  ⟨ha, hc, hg, fun e h => by rw [he] at h; cases h⟩

theorem witness_PowerOnMeetsTheInvariant : 1 ≤ 1 := by decide

theorem witness_StepKeepsTheInvariant :
    ∃ s s' : State, s.Inv ∧ step s = .next s' ∧ s'.rxEv = [.raw [0x41], .err .framingOverflow] :=
  ⟨{ full true with rxEv := [.raw [0x41]], input := [.rxIn 0xC0] }, _,
    ⟨by decide, by decide, by decide, fun e h => by
      rw [List.mem_singleton.mp h]; exact Nat.le_refl 1⟩, rfl, rfl⟩

/-- A state of the invariant for each clause: a step, and the three refused calls (EMIT for both reasons). -/
theorem witness_StepStopsOnlyAtRefusedCalls :
    { room false with input := [.rxIn 0xDB] }.Inv ∧
    { room false with input := [.request (.csumCall [7] 2)] }.Inv ∧ [(7 : Byte)].length < 2 ∧
    { room false with input := [.request (.cfg 0 7)] }.Inv ∧
    { losing false with input := [.request .emitCall] }.Inv ∧ (losing false).ovf = true ∧
    { between 1 with input := [.request .emitCall] }.Inv ∧ (between 1).cur = 0 := by
  refine ⟨?_, ?_, by decide, ?_, ?_, rfl, ?_, rfl⟩ <;>
    exact inv_of (by decide) (by decide) (by decide) rfl

theorem witness_StepRunsTheDecodedInstruction :
    { room true with input := [.rxIn 0xDC] }.input = [.rxIn 0xDC] ∧
    Sys2Proof.decode (selector true (.rxIn 0xDC)) = .instr .rxEscD ∧ (room true).input = [] := by decide

theorem witness_ReceivedByteRunsOneStep :
    { room true with input := [.rxIn 0xC0, .rxIn 1] }.input = .rxIn 0xC0 :: [.rxIn 1] := rfl

theorem witness_EncodedOperationDecodesToItself :
    (Instr.wf (.rxEscV 0xDB) = true ∧ encode (.rxEscV 0xDB) = .word [0xDB, 1] ∧
      selector true (.rxIn 0xDB) = encode (.rxEscV 0xDB)) ∧
    (Instr.wf (.txLit 0) = true ∧ encode (.txLit 0) = .word [0] ∧ selector true (.txByte 0) = encode (.txLit 0)) ∧
    (Instr.wf (.csum [] 3) = true ∧
      selector false (.request (.csumCall [] 3)) = encode (.csum [] 3)) := by decide

theorem witness_AcceptedWordIsAnEncoding :
    Sys2Proof.decode (.word [0xC0, 1]) = .instr (.rxEscV 0xC0) ∧
    Sys2Proof.decode (.word [0xDC]) = .instr (.txLit 0xDC) ∧
    Sys2Proof.decode (.request (.cfg 0 0)) = .instr (.config 0 0) := by decide

theorem witness_SelectorBitsAboveEscAreRejected :
    2 ≤ (2 : Byte).toNat ∧ 2 ≤ (0xFF : Byte).toNat := by decide

/-- Room for one byte more, no room, and discarding; and the values next to the excluded ones. -/
theorem witness_EscapedFormsClearEscAndAppend :
    Fits (room true) ∧ (room true).cur < (room true).cap ∧ Fits (full true) ∧ (full true).cur = (full true).cap ∧
    Fits (losing true) ∧ (losing true).ovf = true ∧
    ((0xDB : Byte) ≠ 0xDC ∧ (0xDB : Byte) ≠ 0xDD) ∧ ((0xDE : Byte) ≠ 0xDC ∧ (0xDE : Byte) ≠ 0xDD) := by decide

theorem witness_DataFormAndAppendStoreTheByte :
    Fits (room false) ∧ (room false).cur < (room false).cap ∧ (room false).ovf = false ∧
    Fits (full false) ∧ (full false).cur = (full false).cap ∧ (full false).ovf = false ∧
    Fits (losing false) ∧ (losing false).ovf = true ∧
    ((0xDC : Byte) ≠ 0xDB ∧ (0xDC : Byte) ≠ 0xC0) ∧ ((0xC1 : Byte) ≠ 0xDB ∧ (0xC1 : Byte) ≠ 0xC0) := by decide

/-- Discarding; nothing between two delimiters; one byte, and a full accumulator. -/
theorem witness_DelimiterEndsThePacket :
    ((losing false).cur ≤ (losing false).cap ∧ (losing false).ovf = true) ∧
    ((between 1).cur ≤ (between 1).cap ∧ (between 1).ovf = false ∧ (between 1).cur = 0) ∧
    ((room false).cur ≤ (room false).cap ∧ (room false).ovf = false ∧ 0 < (room false).cur) ∧
    ((full false).cur ≤ (full false).cap ∧ (full false).ovf = false ∧ 0 < (full false).cur) := by decide

theorem witness_EmitHandsOnACopy :
    ((room false).ovf = false ∧ 0 < (room false).cur ∧ (room false).cur ≤ (room false).cap) ∧
    ((full true).ovf = false ∧ 0 < (full true).cur ∧ (full true).cur ≤ (full true).cap) := by decide

theorem witness_EmitElsewhereIsRefused : (losing false).ovf = true ∧ (between 1).cur = 0 := by decide

theorem witness_OverflowEntryEmitsOneError :
    ((full true).ovf = false ∧ (full true).cur = (full true).cap) ∧
    ((full false).ovf = false ∧ (full false).cur = (full false).cap) := by decide

/-- Escape pairs, tolerated pairs included, do not end the discard; a run that ends with `esc = 0`, and one
that does not. -/
theorem witness_DiscardLastsToTheNextDelimiter :
    ((losing true).ovf = true ∧ delimiters (losing true).esc [0xC0, 0xDB, 0xC0, 0x41] = 0 ∧
      escAfter (losing true).esc [0xC0, 0xDB, 0xC0, 0x41] = false ∧
      Memory.wf (losing true).acc ∧ 1 ≤ [(0xC0 : Byte), 0xDB].length ∧
      [(0xC0 : Byte), 0xDB].length ≤ (losing true).cap) ∧
    ((losing false).ovf = true ∧ delimiters (losing false).esc [0xDB] = 0 ∧
      escAfter (losing false).esc [0xDB] = true) := by decide

/-- The four lines of the table, with the three outcomes of APPEND and of RX.DELIM. -/
theorem witness_StepFollowsTheTransitionTable :
    (Fits (room true) ∧ (room true).esc = true) ∧ (Fits (full true) ∧ (full true).esc = true) ∧
    (Fits (losing true) ∧ (losing true).esc = true) ∧ (Fits (room false) ∧ (room false).esc = false) ∧
    (Fits (full false) ∧ (full false).esc = false) ∧ (Fits (losing false) ∧ (losing false).esc = false) ∧
    (Fits (between 1) ∧ (between 1).esc = false) ∧ ((0xDD : Byte) ≠ 0xDB ∧ (0xDD : Byte) ≠ 0xC0) := by decide

theorem witness_EscIsWrittenOnlyByItsForms :
    ∀ i ∈ oneOfEach, ∃ t, exec i (room true) = .next t :=
  fun i h => (witness_every_operation_completes i h).2

theorem witness_FeedAndIngestComplete :
    (losing true).cur ≤ (losing true).cap ∧ (between 1).cur ≤ (between 1).cap := by decide

/-- A run that starts inside an escape pair and crosses a delimiter. -/
theorem witness_AccumulatorHoldsTheUnescapedBytes :
    ∃ t, Memory.wf (room true).acc ∧ exec (.feed [0xC0, 0xC0, 0x42, 0xDB, 0xDC]) (room true) = .next t ∧
      t.ovf = false ∧ contents t = [0x42, 0xC0] := ⟨_, by decide, rfl, by decide, by decide⟩

theorem witness_EventsAreBoundedByDelimiters :
    (∃ t, exec (.feed [0xDB, 0xC0, 0x43]) (room false) = .next t ∧
      delimiters (room false).esc [0xDB, 0xC0, 0x43] = 0) ∧
    ∃ t, exec (.feed [0x43, 0x44, 0xC0, 0x45, 0xC0]) (room false) = .next t ∧
      delimiters (room false).esc [0x43, 0x44, 0xC0, 0x45, 0xC0] = 2 :=
  ⟨⟨_, rfl, by decide⟩, ⟨_, rfl, by decide⟩⟩

theorem witness_DeframerInvertsFramer :
    Memory.wf (between 2).acc ∧ (between 2).Clean ∧
      ∀ p ∈ [[], [0xC0, 0xDB], [(0x41 : Byte)]], p.length ≤ (between 2).cap := by decide

theorem witness_UnescapedDelimiterResynchronises :
    (Fits (losing false) ∧ (losing false).esc = false ∧ 1 ≤ [(0xC0 : Byte)].length ∧
      [(0xC0 : Byte)].length ≤ (losing false).cap) ∧
    (Fits (full false) ∧ (full false).esc = false ∧ [(0xDB : Byte), 0xC0].length ≤ (full false).cap) := by decide

theorem witness_DanglingEscapeTakesTheDelimiter :
    Memory.wf (between 2).acc ∧ (between 2).Clean ∧ [(0x41 : Byte)].length + 1 ≤ (between 2).cap := by decide

/-- Two accumulators that differ at the cursor, and a step on the first. -/
theorem witness_BytesBeyondTheCursorAreUnobservable :
    ∃ s t s' : State, Memory.wf s.acc ∧ Memory.wf t.acc ∧ SameBelowCursor s t ∧ s.acc ≠ t.acc ∧
      step s = .next s' :=
  ⟨{ room false with input := [.rxIn 0xC0] },
    { room false with input := [.rxIn 0xC0], acc := [(0, 0x41), (1, 9)] }, _,
    by decide, by decide,
    ⟨rfl, fun i h => by
      have : i = 0 := Nat.lt_one_iff.mp h
      subst this; rfl⟩, by decide, rfl⟩

/-- A step that emits a validated packet, and DECODE, which emits raw ones. -/
theorem witness_NewEventsAreWithinTheirBounds :
    (∃ t, exec (.step 0xC0) (at_ 7 false false v1) = .next t ∧ t.rxEv = [.pkt v1]) ∧
    ∃ t, exec (.decode [0x41, 0xC0]) (room true) = .next t ∧ t.rxEv = [.raw [0x41]] :=
  ⟨⟨_, rfl, by decide⟩, ⟨_, rfl, by decide⟩⟩

theorem witness_OutputsOnlyGrow : ∀ i ∈ oneOfEach, ∃ t, exec i (room true) = .next t :=
  fun i h => (witness_every_operation_completes i h).2

theorem witness_EncapLengthAndDelimiters :
    ∃ t, exec (.encap [0xC0, 0xDB, 0xDC]) (room true) = .next t := ⟨_, rfl⟩

theorem witness_EncapEscapesAreLegalPairs :
    ∃ t, exec (.encap [0xDB, 0xC0]) (room true) = .next t ∧
      t.txOut = [0xC0] ++ 0xDB :: [0xDD, 0xDB, 0xDC, 0xC0] := ⟨_, rfl, by decide⟩

theorem witness_EncapIsInjective :
    exec (.encap [0xC0]) (room true) = exec (.encap ([] ++ [0xC0])) (room true) := rfl

/-- The whole buffer, and one byte too many. -/
theorem witness_CsumNegatesTheByteSum : 2 ≤ [(1 : Byte), 2].length ∧ [(1 : Byte), 2].length < 3 := by decide

theorem witness_CsumIgnoresOrder : List.Perm [(1 : Byte), 2] [2, 1] := List.Perm.swap 2 1 []

theorem witness_CsumSeesOneChangedByte : (0 : Byte) ≠ 0xFF := by decide

/-- The least region, and one with payload; LEN_BASE 7. -/
theorem witness_SealAppendsTheChecksum :
    (5 ≤ (v1.take 5).length ∧
      byteAt (v1.take 5) 3 + 256 * byteAt (v1.take 5) 4 + (room true).lenBase = (v1.take 5).length + 2) ∧
    (5 ≤ (v2.take 7).length ∧
      byteAt (v2.take 7) 3 + 256 * byteAt (v2.take 7) 4 + (room true).lenBase = (v2.take 7).length + 2) := by
  decide

/-- A valid packet, and a changed byte before, in and after the length field and in the checksum. -/
theorem witness_OneChangedByteIsRejected :
    2 ≤ 2 ∧ (7 ≤ v2.length ∧ v2.length = byteAt v2 3 + 256 * byteAt v2 4 + 7 ∧
      byteAt v2 (v2.length - 2) + 256 * byteAt v2 (v2.length - 1) = checksum (v2.take (v2.length - 2))) ∧
    validatePkt 7 v2 = .ok ∧
    ∀ k ∈ [0, 2, 3, 4, 5, 6, 7, 8], k < v2.length ∧ (0x77 : Byte).toNat ≠ byteAt v2 k := by decide

theorem witness_SwappedBytesAreNotDetected :
    validatePkt 7 v2 = .ok ∧
    (0 < v2.length - 2 ∧ 6 < v2.length - 2 ∧ 0 ≠ 3 ∧ 0 ≠ 4 ∧ 6 ≠ 3 ∧ 6 ≠ 4) ∧
    (2 < v2.length - 2 ∧ 5 < v2.length - 2 ∧ 2 ≠ 3 ∧ 2 ≠ 4 ∧ 5 ≠ 3 ∧ 5 ≠ 4) := by decide

theorem witness_ResetClearsAndSamples : Memory.wf (losing true).acc ∧ (losing true).acc ≠ [] := by decide

theorem witness_ConfigurationIsSampledAtReset :
    1 ≤ 1 ∧ ∀ i ∈ oneOfEach, ∃ t, exec i (room true) = .next t :=
  ⟨Nat.le_refl 1, fun i h => (witness_every_operation_completes i h).2⟩

/-- A packet of exactly CAP bytes, the empty one, and one byte more than CAP. -/
theorem witness_DecodeInvertsEncap :
    Memory.wf (losing true).acc ∧
    (1 ≤ [(0xC0 : Byte), 0xDB].length ∧ [(0xC0 : Byte), 0xDB].length ≤ (losing true).cfgCap) ∧
    ([] : List Byte) = [] ∧ (losing true).cfgCap < [(1 : Byte), 2, 3].length := by decide

/-- Two packets, an overflow, and a dangling escape in one stream, CAP = 2; no packet at all. -/
theorem witness_DecodeAnswersTheRawPackets : Memory.wf (losing true).acc ∧
    deframe (losing true).cfgCap [0x41, 0xC0, 0xDB, 0xC0, 0xC0, 1, 2, 3, 0xC0, 4, 0xDB] =
      ⟨true, false, [4], [.raw [0x41], .raw [0xC0], .err .framingOverflow]⟩ ∧
    deframe (losing true).cfgCap [0xC0, 0xC0] = ⟨false, false, [], []⟩ := by decide

theorem witness_IngestValidatesEachPacket :
    ∃ t, feedBytes .raw [0xC0, 0x42, 0xC0] (room false) = .next t ∧ t.rxEv = [.raw [0x41], .raw [0x42]] :=
  ⟨_, rfl, by decide⟩

theorem witness_IngestDeliversEveryPacketInOrder : Memory.wf (between 8).acc ∧ (between 8).Clean := by decide

theorem witness_SealedPacketCrossesTheLink :
    (Memory.wf (between 9).acc ∧ (between 9).Clean ∧ 5 ≤ (v2.take 7).length ∧
      byteAt (v2.take 7) 3 + 256 * byteAt (v2.take 7) 4 + (between 9).lenBase = (v2.take 7).length + 2 ∧
      (v2.take 7).length + 2 ≤ (between 9).cap) ∧
    ∃ s', exec (.encap (withChecksum (v2.take 7))) (room true) = .next s' ∧
      s'.txOut = [] ++ (0xC0 :: v2 ++ [0xC0]) ∧
      [[0xC0, 0x0D], [], v2.drop 1 ++ [0xC0]].flatten = (0xC0 :: v2 ++ [0xC0] : List Byte) :=
  ⟨by decide, _, rfl, by decide, by decide⟩

theorem witness_OtherUnitsLeaveTheReceiver : ∀ i ∈ oneOfEach, ∃ t, exec i (room true) = .next t :=
  fun i h => (witness_every_operation_completes i h).2

/-- The cells a run stores to at the edges: the last cell, no cell when full or discarding, cell 0 again after
a delimiter. -/
theorem witness_storedCells :
    (∃ t, exec (.feed [0xC0, 0x42]) (room true) = .next t) ∧
    storedCells 2 true false 1 [0xC0, 0x42] = [1] ∧ storedCells 2 false true 2 [0x42] = [] ∧
    storedCells 2 false false 1 [0x42, 0x43, 0xC0, 0xDB, 0xDC] = [1, 0] ∧
    (∃ t, exec (.append 7) (full true) = .next t) ∧ ∃ t, exec (.append 7) (room true) = .next t :=
  ⟨⟨_, rfl⟩, by decide, by decide, by decide, ⟨_, rfl⟩, ⟨_, rfl⟩⟩

end Sys2Proof.Tests
end

section
/-! SUPPORT. What the operations can do when they go on, one inversion lemma for each operation of `exec`
that has a guard or runs in two parts, and the fields that `storeNext` and `handOn` write or leave. -/

namespace Sys2Proof.Machine

variable {s t : State}

@[simp] theorem State.storeNext_esc (s : State) (v : Byte) : (s.storeNext v).esc = s.esc := rfl
@[simp] theorem State.storeNext_cap (s : State) (v : Byte) : (s.storeNext v).cap = s.cap := rfl
@[simp] theorem State.storeNext_lenBase (s : State) (v : Byte) :
    (s.storeNext v).lenBase = s.lenBase := rfl
@[simp] theorem State.storeNext_rxEv (s : State) (v : Byte) : (s.storeNext v).rxEv = s.rxEv := rfl

@[simp] theorem State.handOn_esc (s : State) (d : Delivery) : (s.handOn d).esc = s.esc := rfl
@[simp] theorem State.handOn_cap (s : State) (d : Delivery) : (s.handOn d).cap = s.cap := rfl
@[simp] theorem State.handOn_lenBase (s : State) (d : Delivery) :
    (s.handOn d).lenBase = s.lenBase := rfl
@[simp] theorem State.handOn_rxEv (s : State) (d : Delivery) :
    (s.handOn d).rxEv = s.rxEv ++ [deliveryEvent d s.lenBase (s.accCopy s.cur)] := rfl

@[simp] theorem State.accCopy_length (s : State) (n : Nat) : (s.accCopy n).length = n := by
  simp [State.accCopy]

theorem execEmit_cases (h : execEmit s = .next t) :
    s.ovf = false ∧ 0 < s.cur ∧ s.cur ≤ s.cap ∧ t = s.handOn .validated := by
  unfold execEmit at h
  split at h
  · next hdue => exact ⟨hdue.1, hdue.2, emitPacket_cases h⟩
  · cases h

theorem execCsum_cases {buf : List Byte} {len : Nat} (h : execCsum buf len s = .next t) :
    len ≤ buf.length ∧ t = s.answer (.csum (csum buf len)) := by
  unfold execCsum at h
  split at h
  · next hlen => cases h; exact ⟨hlen, rfl⟩
  · cases h

theorem execConfig_cases {cap lenBase : Nat} (h : execConfig cap lenBase s = .next t) :
    cap ≠ 0 ∧ t = { s with cfgCap := cap, cfgLenBase := lenBase } := by
  unfold execConfig at h
  split at h
  · cases h
  · next hcap => cases h; exact ⟨hcap, rfl⟩

theorem execDecode_cases {bytes : List Byte} (h : execDecode bytes s = .next t) :
    ∃ u, feedBytes .raw bytes s.restart = .next u ∧
      t = u.answer (.packets (rawPackets (u.rxEv.drop s.rxEv.length))) := by
  obtain ⟨u, hfeed, hanswer⟩ := thenDo_eq_next h
  cases hanswer
  exact ⟨u, hfeed, rfl⟩

end Sys2Proof.Machine
end

section
/-! SUPPORT. The un-escaping flag after each shared operation of the deframer (R13, R81, R94 item 4). -/

namespace Sys2Proof.Machine

open Sys2Proof.Reference

variable {s t : State} {d : Delivery} {v b : Byte}

theorem appendByte_keeps_esc (h : appendByte v s = .next t) : t.esc = s.esc := by
  rcases appendByte_cases h with ⟨-, rfl⟩ | ⟨-, -, rfl⟩ | ⟨-, -, rfl⟩ <;> simp

theorem appendUnescaped_clears_esc (h : appendUnescaped v s = .next t) : t.esc = false :=
  appendByte_keeps_esc (s := s.setEsc false) h

theorem delimiter_keeps_esc (h : delimiter d s = .next t) : t.esc = s.esc := by
  rcases delimiter_cases h with ⟨-, rfl⟩ | ⟨-, -, rfl⟩ | ⟨-, -, -, rfl⟩ <;> simp

/-- `esc` is 1 after a STEP exactly when it was 0 and the byte is the escape byte. -/
theorem stepByte_esc_after (h : stepByte d b s = .next t) : t.esc = (!s.esc && b == 0xDB) := by
  rcases stepByte_forms d b s with ⟨he, hf⟩ | ⟨he, rfl, hf⟩ | ⟨he, rfl, hf⟩ | ⟨he, hb, -, hf⟩ <;>
    rw [hf] at h
  · simpa [he] using appendUnescaped_clears_esc h
  · cases h
    rw [he]
    rfl
  · rw [delimiter_keeps_esc h, he]
    rfl
  · rw [appendByte_keeps_esc h, he]
    exact (beq_false_of_ne hb).symm

theorem feedBytes_esc_after {c : List Byte} (h : feedBytes d c s = .next t) :
    t.esc = escAfter s.esc c := by
  induction c generalizing s with
  | nil => cases h; rfl
  | cons b c ih =>
    obtain ⟨u, hstep, hrest⟩ := thenDo_eq_next h
    rw [ih hrest, stepByte_esc_after hstep]
    rfl

end Sys2Proof.Machine
end

section
/-! SUPPORT. The deframer's operations leave CAP and LEN_BASE in force as they were (R20, R123). -/

namespace Sys2Proof.Machine

variable {s t : State} {d : Delivery} {v b : Byte}

theorem appendByte_keeps_config (h : appendByte v s = .next t) :
    t.cap = s.cap ∧ t.lenBase = s.lenBase := by
  rcases appendByte_cases h with ⟨-, rfl⟩ | ⟨-, -, rfl⟩ | ⟨-, -, rfl⟩ <;> simp

theorem delimiter_keeps_config (h : delimiter d s = .next t) :
    t.cap = s.cap ∧ t.lenBase = s.lenBase := by
  rcases delimiter_cases h with ⟨-, rfl⟩ | ⟨-, -, rfl⟩ | ⟨-, -, -, rfl⟩ <;> simp

theorem stepByte_keeps_config (h : stepByte d b s = .next t) :
    t.cap = s.cap ∧ t.lenBase = s.lenBase := by
  rcases stepByte_forms d b s with ⟨-, hf⟩ | ⟨-, -, hf⟩ | ⟨-, -, hf⟩ | ⟨-, -, -, hf⟩ <;> rw [hf] at h
  · exact appendByte_keeps_config (s := s.setEsc false) h
  · cases h
    exact ⟨rfl, rfl⟩
  · exact delimiter_keeps_config h
  · exact appendByte_keeps_config h

theorem feedBytes_keeps_config {c : List Byte} (h : feedBytes d c s = .next t) :
    t.cap = s.cap ∧ t.lenBase = s.lenBase :=
  feedBytes_keeps (P := fun u => u.cap = s.cap ∧ u.lenBase = s.lenBase)
    (fun _ _ _ hu hstep =>
      have ⟨hcap, hlenBase⟩ := stepByte_keeps_config hstep
      ⟨hcap.trans hu.1, hlenBase.trans hu.2⟩)
    c s t ⟨rfl, rfl⟩ h

end Sys2Proof.Machine
end

section
/-! SUPPORT. The model's checksum and verdict are those of the reference functions (R100, R103). -/

namespace Sys2Proof.Machine

open Sys2Proof.Reference

theorem csum_toNat (buf : List Byte) (len : Nat) :
    (csum buf len).toNat = checksum (buf.take len) := by
  rw [csum_eq_neg, BitVec.toNat_neg, runningSum_toNat]
  rfl

theorem validatePkt_eq_verdict (lenBase : Nat) (p : List Byte) :
    validatePkt lenBase p = verdict lenBase p := by
  unfold validatePkt
  rw [csum_toNat]
  rfl

theorem deliveryEvent_validated (lenBase : Nat) (p : List Byte) :
    deliveryEvent .validated lenBase p = handedOn lenBase p := by
  rw [deliveryEvent, validatePkt_eq_verdict]
  rfl

theorem verdict_ok_length {lenBase : Nat} {p : List Byte} (h : verdict lenBase p = .ok) :
    7 ≤ p.length :=
  ((validatePkt_ok_iff lenBase p).1 (validatePkt_eq_verdict lenBase p ▸ h)).1

end Sys2Proof.Machine
end

section
/-! SUPPORT. What the operations append to `RX_EV` and the bounds of it (R18). -/

namespace Sys2Proof.Machine

open Sys2Proof.Reference

variable {s t u : State} {d : Delivery} {v b : Byte}

/-- The bounds of R18 on one event, for the given parameters in force. -/
def Event.WithinBounds (lenBase cap : Nat) : Event → Prop
  | .pkt p => verdict lenBase p = .ok ∧ 7 ≤ p.length ∧ p.length ≤ cap
  | .raw p => 1 ≤ p.length ∧ p.length ≤ cap
  | .err _ => True

/-- From `s` to `t`, `RX_EV` is extended by events within the bounds of `t`'s parameters. -/
def EmitsWithinBounds (s t : State) : Prop :=
  ∃ evs, t.rxEv = s.rxEv ++ evs ∧ ∀ e ∈ evs, e.WithinBounds t.lenBase t.cap

/-- The same for at most one event. -/
def EmitsAtMostOne (s t : State) : Prop :=
  t.rxEv = s.rxEv ∨ ∃ e, t.rxEv = s.rxEv ++ [e] ∧ e.WithinBounds t.lenBase t.cap

theorem EmitsWithinBounds.of_rxEv_eq (h : t.rxEv = s.rxEv) : EmitsWithinBounds s t :=
  ⟨[], by simpa using h, by simp⟩

theorem EmitsAtMostOne.emitsWithinBounds (h : EmitsAtMostOne s t) : EmitsWithinBounds s t := by
  rcases h with h | ⟨e, h, he⟩
  · exact .of_rxEv_eq h
  · exact ⟨[e], h, by simpa using he⟩

theorem EmitsWithinBounds.trans (hsu : EmitsWithinBounds s u) (hut : EmitsWithinBounds u t)
    (hconfig : t.cap = u.cap ∧ t.lenBase = u.lenBase) : EmitsWithinBounds s t := by
  obtain ⟨evs, hs, hevs⟩ := hsu
  obtain ⟨evs', hu, hevs'⟩ := hut
  rw [← hconfig.1, ← hconfig.2] at hevs
  exact ⟨evs ++ evs', by rw [hu, hs, List.append_assoc],
    fun e he => (List.mem_append.1 he).elim (hevs e) (hevs' e)⟩

theorem deliveryEvent_withinBounds (d : Delivery) (lenBase : Nat) {cap : Nat} {p : List Byte}
    (hpos : 0 < p.length) (hcap : p.length ≤ cap) :
    (deliveryEvent d lenBase p).WithinBounds lenBase cap := by
  cases d with
  | raw => exact ⟨hpos, hcap⟩
  | validated =>
    rw [deliveryEvent_validated, handedOn]
    split
    · next hok => exact ⟨hok, verdict_ok_length hok, hcap⟩
    · trivial

/-- The packet handed on is `acc[0..cur)`, so its length is the cursor's value. -/
theorem handOn_emits (d : Delivery) (hpos : 0 < s.cur) (hcap : s.cur ≤ s.cap) :
    EmitsAtMostOne s (s.handOn d) :=
  .inr ⟨_, s.handOn_rxEv d,
    deliveryEvent_withinBounds d s.lenBase (by simpa using hpos) (by simpa using hcap)⟩

theorem appendByte_emits (h : appendByte v s = .next t) : EmitsAtMostOne s t := by
  rcases appendByte_cases h with ⟨-, rfl⟩ | ⟨-, -, rfl⟩ | ⟨-, -, rfl⟩
  · exact .inl rfl
  · exact .inr ⟨_, s.overflow_rxEv, trivial⟩
  · exact .inl (s.storeNext_rxEv v)

theorem delimiter_emits (h : delimiter d s = .next t) : EmitsAtMostOne s t := by
  rcases delimiter_cases h with ⟨-, rfl⟩ | ⟨-, -, rfl⟩ | ⟨-, hpos, hcap, rfl⟩
  · exact .inl s.resync_rxEv
  · exact .inl rfl
  · exact handOn_emits d hpos hcap

theorem stepByte_emits (h : stepByte d b s = .next t) : EmitsAtMostOne s t := by
  rcases stepByte_forms d b s with ⟨-, hf⟩ | ⟨-, -, hf⟩ | ⟨-, -, hf⟩ | ⟨-, -, -, hf⟩ <;> rw [hf] at h
  · exact appendByte_emits (s := s.setEsc false) h
  · cases h
    exact .inl rfl
  · exact delimiter_emits h
  · exact appendByte_emits h

theorem feedBytes_emits {c : List Byte} (h : feedBytes d c s = .next t) :
    EmitsWithinBounds s t := by
  induction c generalizing s with
  | nil => cases h; exact .of_rxEv_eq rfl
  | cons b c ih =>
    obtain ⟨u, hstep, hrest⟩ := thenDo_eq_next h
    exact (stepByte_emits hstep).emitsWithinBounds.trans (ih hrest) (feedBytes_keeps_config hrest)

theorem exec_emits (i : Instr) (h : exec i s = .next t) : EmitsWithinBounds s t := by
  cases i with
  | rxEscD | rxEscE | rxEscV | rxData | append => exact (appendByte_emits h).emitsWithinBounds
  | rxDelim => exact (delimiter_emits h).emitsWithinBounds
  | step => exact (stepByte_emits h).emitsWithinBounds
  | feed | ingest => exact feedBytes_emits h
  | emit =>
    obtain ⟨-, hpos, hcap, rfl⟩ := execEmit_cases h
    exact (handOn_emits .validated hpos hcap).emitsWithinBounds
  | decode =>
    obtain ⟨u, hfeed, rfl⟩ := execDecode_cases h
    have hemits : EmitsWithinBounds s.restart u := feedBytes_emits hfeed
    exact hemits
  | csum =>
    obtain ⟨-, rfl⟩ := execCsum_cases h
    exact .of_rxEv_eq rfl
  | config =>
    obtain ⟨-, rfl⟩ := execConfig_cases h
    exact .of_rxEv_eq rfl
  | rxEsc | txSubD | txSubE | txLit | encap | sealPkt | validate | reset =>
    cases h
    exact .of_rxEv_eq rfl

end Sys2Proof.Machine
end

section
/-! SUPPORT. The statements about the state: reset values, the un-escaping flag, the event output. -/

namespace Sys2Proof.Proofs

open Sys2Proof.Machine Sys2Proof.Reference

/-- Settles O1: every field is as `powerOn` writes it, and `State.reset` is `powerOn` with the CAP of
LOG 2. -/
theorem powerOnLeavesTheResetValues : Obligations.PowerOnLeavesTheResetValues := by
  refine ⟨fun cap lenBase => ⟨rfl, rfl, rfl, rfl, rfl, rfl, rfl⟩, Config.resetCap, ?_, rfl⟩
  decide

/-- Settles O24, operation by operation: the receive forms by what APPEND and RX.DELIM leave in `esc`, the
chunks by induction over their bytes. -/
theorem escIsWrittenOnlyByItsForms : Obligations.EscIsWrittenOnlyByItsForms := by
  intro i s t h
  cases i with
  | rxEscD | rxEscE | rxEscV => exact appendUnescaped_clears_esc h
  | rxData | append => exact appendByte_keeps_esc h
  | rxDelim => exact delimiter_keeps_esc h
  | step => exact stepByte_esc_after h
  | feed | ingest => exact feedBytes_esc_after h
  | emit =>
    obtain ⟨-, -, -, rfl⟩ := execEmit_cases h
    rfl
  | decode =>
    obtain ⟨u, hfeed, rfl⟩ := execDecode_cases h
    exact feedBytes_esc_after hfeed
  | csum =>
    obtain ⟨-, rfl⟩ := execCsum_cases h
    rfl
  | config =>
    obtain ⟨-, rfl⟩ := execConfig_cases h
    rfl
  | rxEsc | txSubD | txSubE | txLit | encap | sealPkt | validate | reset =>
    cases h
    rfl

/-- Settles O34: a packet is handed on only from `0 < cur ≤ CAP`, and as a `PKT` only when VALIDATE
accepts it. -/
theorem newEventsAreWithinTheirBounds : Obligations.NewEventsAreWithinTheirBounds := by
  refine ⟨fun i s t h => ?_, fun b s t h => ?_⟩
  · obtain ⟨evs, hev, hbounds⟩ := exec_emits i h
    exact ⟨evs, hev, fun p hp => hbounds _ hp, fun p hp => hbounds _ hp⟩
  · exact (stepByte_emits h).imp_right fun ⟨e, he, _⟩ => ⟨e, he⟩

end Sys2Proof.Proofs
end

section
/-! SUPPORT. What a step can do when it goes on: wait, or run the operation of the oldest transfer (R35;
LOG 4). -/

namespace Sys2Proof.Machine

variable {s t : State}

theorem step_idle (h : s.input = []) : step s = .next s := by
  rw [step, h]

theorem step_accept {st : Stimulus} {rest : List Stimulus} {i : Instr} (h : s.input = st :: rest)
    (hdecode : Sys2Proof.decode (selector s.esc st) = .instr i) :
    step s = exec i { s with input := rest } := by
  simp only [step, h, hdecode]

theorem step_cases (h : step s = .next t) :
    (s.input = [] ∧ t = s) ∨
    ∃ st rest i, s.input = st :: rest ∧ Sys2Proof.decode (selector s.esc st) = .instr i ∧
      exec i { s with input := rest } = .next t := by
  cases hinput : s.input with
  | nil =>
    rw [step_idle hinput] at h
    cases h
    exact .inl ⟨rfl, rfl⟩
  | cons st rest =>
    cases hdecode : Sys2Proof.decode (selector s.esc st) with
    | instr i => exact .inr ⟨st, rest, i, rfl, hdecode, step_accept hinput hdecode ▸ h⟩
    | rejected e => simp [step, hinput, hdecode] at h

end Sys2Proof.Machine
end

section
/-! SUPPORT. Two states that differ at most in accumulator cells at or beyond the cursor: every operation
that goes on from the one goes on from the other, and the next states differ no more than that (R37, R43). -/

namespace Sys2Proof.Machine

open Sys2Proof.Reference

variable {s t : State}

/-- `SameBelowCursor` between states with canonical accumulators: the relation that every operation keeps.
Without canonical form a read after a write need not give the byte written. -/
structure State.Alike (s t : State) : Prop where
  wf_left : Memory.wf s.acc
  wf_right : Memory.wf t.acc
  same : SameBelowCursor s t

/-- Where the first result goes on, the second does too, to a state alike. -/
def GoOnAlike (r r' : Host.Outcome State Fault Refusal) : Prop :=
  ∀ s', r = .next s' → ∃ t', r' = .next t' ∧ s'.Alike t'

/-! ## The relation on states -/

theorem State.Alike.eq_withAcc (h : s.Alike t) : ∃ m, t = { s with acc := m } := ⟨_, h.same.1⟩

theorem State.Alike.esc_eq (h : s.Alike t) : t.esc = s.esc := (congrArg State.esc h.same.1 :)

theorem State.Alike.input_eq (h : s.Alike t) : t.input = s.input := (congrArg State.input h.same.1 :)

/-- An update that neither reads nor writes `acc` and does not advance the cursor keeps states alike. -/
theorem State.Alike.map (h : s.Alike t) (f : State → State)
    (hacc : ∀ m, f { s with acc := m } = { f s with acc := m }) (hcur : (f s).cur ≤ s.cur) :
    (f s).Alike (f t) := by
  obtain ⟨hs, ht, ⟨hfields, hcells⟩⟩ := h
  have hfs : (f s).acc = s.acc := (congrArg State.acc (hacc s.acc) :)
  have hft : f t = { f s with acc := t.acc } := by rw [hfields, hacc]
  refine ⟨hfs ▸ hs, by rw [hft]; exact ht, by rw [hft], fun i hi => ?_⟩
  rw [hft]
  simpa [State.accRead, hfs] using hcells i (Nat.lt_of_lt_of_le hi hcur)

theorem State.Alike.setEsc (h : s.Alike t) (e : Bool) : (s.setEsc e).Alike (t.setEsc e) :=
  h.map (State.setEsc e) (fun _ => rfl) (Nat.le_refl _)

theorem State.Alike.answer (h : s.Alike t) (a : Answer) : (s.answer a).Alike (t.answer a) :=
  h.map (State.answer a) (fun _ => rfl) (Nat.le_refl _)

/-- The copy that EMIT hands on reads only cells below the cursor (R37). -/
theorem State.Alike.accCopy_eq (h : s.Alike t) : t.accCopy s.cur = s.accCopy s.cur :=
  List.map_congr_left fun i hi => h.same.2 i (List.mem_range.1 hi)

theorem State.Alike.handOn (h : s.Alike t) (d : Delivery) : (s.handOn d).Alike (t.handOn d) := by
  have ht : t.handOn d = (t.setCur 0).emitEvent (deliveryEvent d s.lenBase (s.accCopy s.cur)) := by
    rw [← h.accCopy_eq]
    obtain ⟨m, rfl⟩ := h.eq_withAcc
    rfl
  rw [ht]
  exact h.map (fun u => (u.setCur 0).emitEvent (deliveryEvent d s.lenBase (s.accCopy s.cur)))
    (fun _ => rfl) (Nat.zero_le _)

/-- The store at the cursor writes the same byte in both states, so they agree on one cell more. -/
theorem State.Alike.storeNext (h : s.Alike t) (v : Byte) : (s.storeNext v).Alike (t.storeNext v) := by
  obtain ⟨m, rfl⟩ := h.eq_withAcc
  obtain ⟨hs, hm, ⟨-, hcells⟩⟩ := h
  refine ⟨Memory.wf_write hs _ v, Memory.wf_write hm _ v, rfl, fun i hi => ?_⟩
  change Memory.read (Memory.write m s.cur v) i = Memory.read (Memory.write s.acc s.cur v) i
  rw [Memory.read_write hm, Memory.read_write hs]
  split
  · rfl
  · next hne => exact hcells i (Nat.lt_of_le_of_ne (Nat.le_of_lt_succ hi) hne)

/-- RESET puts the cursor at 0, so no cell has to agree. -/
theorem State.Alike.restart (h : s.Alike t) : s.restart.Alike t.restart := by
  obtain ⟨m, rfl⟩ := h.eq_withAcc
  exact ⟨Memory.wf_below h.wf_left _, Memory.wf_below h.wf_right _, rfl,
    fun i hi => absurd hi (Nat.not_lt_zero i)⟩

/-! ## The relation on results -/

theorem GoOnAlike.next (h : s.Alike t) : GoOnAlike (.next s) (.next t) := by
  intro s' hs
  cases hs
  exact ⟨t, rfl, h⟩

theorem GoOnAlike.thenDo {r r' : Host.Outcome State Fault Refusal}
    {k k' : State → Host.Outcome State Fault Refusal} (hr : GoOnAlike r r')
    (hk : ∀ u w, u.Alike w → GoOnAlike (k u) (k' w)) :
    GoOnAlike (thenDo r k) (thenDo r' k') := by
  intro s' hs
  obtain ⟨u, rfl, hu⟩ := thenDo_eq_next hs
  obtain ⟨w, rfl, huw⟩ := hr u rfl
  exact hk u w huw s' hu

/-! ## The deframer's operations -/

theorem appendByte_alike (h : s.Alike t) (v : Byte) : GoOnAlike (appendByte v s) (appendByte v t) := by
  intro s' hs
  obtain ⟨m, rfl⟩ := h.eq_withAcc
  rcases appendByte_cases hs with ⟨hovf, rfl⟩ | ⟨hovf, hfull, rfl⟩ | ⟨hovf, hroom, rfl⟩
  · exact ⟨_, appendByte_discard hovf, h⟩
  · exact ⟨_, appendByte_full hovf hfull, h.map State.overflow (fun _ => rfl) (Nat.le_refl _)⟩
  · exact ⟨_, appendByte_room hovf hroom, h.storeNext v⟩

theorem appendUnescaped_alike (h : s.Alike t) (v : Byte) :
    GoOnAlike (appendUnescaped v s) (appendUnescaped v t) :=
  appendByte_alike (h.setEsc false) v

theorem delimiter_alike (h : s.Alike t) (d : Delivery) :
    GoOnAlike (delimiter d s) (delimiter d t) := by
  intro s' hs
  obtain ⟨m, rfl⟩ := h.eq_withAcc
  rcases delimiter_cases hs with ⟨hovf, rfl⟩ | ⟨hovf, hzero, rfl⟩ | ⟨hovf, hpos, hcap, rfl⟩
  · exact ⟨_, delimiter_discard d hovf, h.map State.resync (fun _ => rfl) (Nat.zero_le _)⟩
  · exact ⟨_, delimiter_idle d hovf hzero, h⟩
  · exact ⟨_, delimiter_packet d hovf hpos hcap, h.handOn d⟩

theorem execEmit_alike (h : s.Alike t) : GoOnAlike (execEmit s) (execEmit t) := by
  intro s' hs
  obtain ⟨m, rfl⟩ := h.eq_withAcc
  obtain ⟨hovf, hpos, hcap, rfl⟩ := execEmit_cases hs
  exact ⟨_, (if_pos ⟨hovf, hpos⟩).trans (emitPacket_next .validated hcap), h.handOn .validated⟩

/-- `esc` is the same in both states, so the byte is read in the same way. -/
theorem stepByte_alike (h : s.Alike t) (d : Delivery) (b : Byte) :
    GoOnAlike (stepByte d b s) (stepByte d b t) := by
  rcases stepByte_forms d b s with ⟨he, hf⟩ | ⟨he, rfl, hf⟩ | ⟨he, rfl, hf⟩ | ⟨he, hb, hb', hf⟩ <;>
    rw [hf]
  · rw [stepByte_escaped d b (h.esc_eq.trans he)]
    exact appendUnescaped_alike h (unsub b)
  · rw [stepByte_esc d (h.esc_eq.trans he)]
    exact .next (h.setEsc true)
  · rw [stepByte_delim d (h.esc_eq.trans he)]
    exact delimiter_alike h d
  · rw [stepByte_data d (h.esc_eq.trans he) hb hb']
    exact appendByte_alike h b

theorem feedBytes_alike (h : s.Alike t) (d : Delivery) (c : List Byte) :
    GoOnAlike (feedBytes d c s) (feedBytes d c t) := by
  induction c generalizing s t with
  | nil => exact .next h
  | cons b c ih => exact (stepByte_alike h d b).thenDo fun _ _ hu => ih hu

/-! ## Every operation, and the step -/

theorem execCsum_alike (h : s.Alike t) (buf : List Byte) (len : Nat) :
    GoOnAlike (execCsum buf len s) (execCsum buf len t) := by
  intro s' hs
  obtain ⟨hlen, rfl⟩ := execCsum_cases hs
  exact ⟨_, if_pos hlen, h.answer _⟩

theorem execConfig_alike (h : s.Alike t) (cap lenBase : Nat) :
    GoOnAlike (execConfig cap lenBase s) (execConfig cap lenBase t) := by
  intro s' hs
  obtain ⟨hcap, rfl⟩ := execConfig_cases hs
  exact ⟨_, if_neg hcap,
    h.map (fun u => { u with cfgCap := cap, cfgLenBase := lenBase }) (fun _ => rfl) (Nat.le_refl _)⟩

/-- The list that DECODE answers is read off `RX_EV`, on which both states agree. -/
theorem execDecode_alike (h : s.Alike t) (bytes : List Byte) :
    GoOnAlike (execDecode bytes s) (execDecode bytes t) := by
  have hfeed := feedBytes_alike h.restart .raw bytes
  obtain ⟨m, rfl⟩ := h.eq_withAcc
  exact hfeed.thenDo fun _ _ hu => .next (hu.map
    (fun u => u.answer (.packets (rawPackets (u.rxEv.drop s.rxEv.length)))) (fun _ => rfl)
    (Nat.le_refl _))

theorem exec_alike (h : s.Alike t) (i : Instr) : GoOnAlike (exec i s) (exec i t) := by
  cases i with
  | rxEscD | rxEscE | rxEscV => exact appendUnescaped_alike h _
  | rxData v | append v => exact appendByte_alike h v
  | rxDelim => exact delimiter_alike h .validated
  | step b => exact stepByte_alike h .validated b
  | feed c | ingest c => exact feedBytes_alike h .validated c
  | emit => exact execEmit_alike h
  | decode bytes => exact execDecode_alike h bytes
  | csum buf len => exact execCsum_alike h buf len
  | config cap lenBase => exact execConfig_alike h cap lenBase
  | reset => exact .next h.restart
  | rxEsc => exact .next (h.setEsc true)
  | txSubD | txSubE | txLit | encap =>
    exact .next (h.map (State.putTx _) (fun _ => rfl) (Nat.le_refl _))
  | sealPkt => exact .next (h.answer _)
  | validate p =>
    exact .next (h.map (fun u => u.answer (.verdict (validatePkt u.lenBase p))) (fun _ => rfl)
      (Nat.le_refl _))

/-- The selection reads `input` and `esc`, on which both states agree. -/
theorem step_alike (h : s.Alike t) : GoOnAlike (step s) (step t) := by
  intro s' hs
  rcases step_cases hs with ⟨hidle, rfl⟩ | ⟨st, rest, i, hinput, hdecode, hexec⟩
  · exact ⟨t, step_idle (h.input_eq.trans hidle), h⟩
  · rw [step_accept (h.input_eq.trans hinput) (h.esc_eq.symm ▸ hdecode)]
    have haccept := h.map (fun u => { u with input := rest }) (fun _ => rfl) (Nat.le_refl _)
    exact exec_alike haccept i s' hexec

end Sys2Proof.Machine
end

section
/-! SUPPORT. The statement about the accumulator space: cells at or beyond the cursor (R43). -/

namespace Sys2Proof.Proofs

open Sys2Proof.Machine Sys2Proof.Reference

/-- Settles O33: being alike below the cursor is kept by every operation, the chunks by induction over their
bytes; EMIT reads below the cursor only, and APPEND writes the cell at the cursor before the cursor passes
it. -/
theorem bytesBeyondTheCursorAreUnobservable : Obligations.BytesBeyondTheCursorAreUnobservable := by
  intro s t s' hs ht hsame hstep
  obtain ⟨t', hstep', halike⟩ := step_alike ⟨hs, ht, hsame⟩ s' hstep
  exact ⟨t', hstep', halike.same⟩

end Sys2Proof.Proofs
end

section
/-! SUPPORT. The selection of a receive form by the pair (`esc`, `b`) (R53). -/

namespace Sys2Proof.Machine

open Sys2Proof.Reference

/-- `esc` travels as the second byte of the selector, so the decoder reads both parts of the pair back. -/
@[simp] theorem decode_selector_rxIn (esc : Bool) (b : Byte) :
    Sys2Proof.decode (selector esc (.rxIn b)) = .instr (rxForm esc b) := by
  cases esc with
  | false => rfl
  | true => rfl

theorem selects_iff {esc : Bool} {b : Byte} {i : Instr} : Selects esc b i ↔ rxForm esc b = i := by
  simp [Selects]

/-- The half of R53 with `esc = 1`: no byte is a delimiter or starts a pair. -/
theorem rxForm_true (b : Byte) :
    rxForm true b = if b = 0xDC then .rxEscD else if b = 0xDD then .rxEscE else .rxEscV b :=
  if_pos rfl

/-- The half of R53 with `esc = 0`: 0xDC and 0xDD are data (R58). -/
theorem rxForm_false (b : Byte) :
    rxForm false b = if b = 0xDB then .rxEsc else if b = 0xC0 then .rxDelim else .rxData b :=
  if_neg Bool.false_ne_true

end Sys2Proof.Machine
end

section
/-! SUPPORT. The statement about the receive encodings: the form of a received byte (R53). -/

namespace Sys2Proof.Proofs

open Sys2Proof.Machine

/-- Settles O7: the decoder answers `rxForm` of the pair, which has one chain of tests for each value of
`esc`. -/
theorem receiveSelectorPicksTheForm : Obligations.ReceiveSelectorPicksTheForm := fun b =>
  ⟨selects_iff.mpr (rxForm_true b), selects_iff.mpr (rxForm_false b)⟩

end Sys2Proof.Proofs
end

section
/-! SUPPORT. What the framer appends to `TX_OUT`: the substitution map and the stream are those of the
reference functions, and successive runs stand one after the other (R50, R54, R70, R74). -/

namespace Sys2Proof.Machine

open Sys2Proof.Reference

/-- Both are one chain of tests on the byte; the two substitutes and the two bytes they stand for have the
spec's values. -/
theorem escapeByte_eq_wireByte (b : Byte) : escapeByte b = wireByte b := rfl

theorem encapBytes_eq_wire (p : List Byte) : encapBytes p = wire p := by
  rw [encapBytes, funext escapeByte_eq_wireByte]
  rfl

@[simp] theorem State.putTx_putTx (s : State) (out out' : List Byte) :
    (s.putTx out).putTx out' = s.putTx (out ++ out') := by
  simp only [State.putTx, List.append_assoc]

/-- ENCAP goes on in every state, and what it writes is one run on `TX_OUT`. -/
theorem exec_encap (p : List Byte) (s : State) : exec (.encap p) s = .next (s.putTx (wire p)) := by
  rw [← encapBytes_eq_wire]
  rfl

end Sys2Proof.Machine
end

section
/-! SUPPORT. The statement about ENCAP's run on `TX_OUT` (R70, R74). -/

namespace Sys2Proof.Proofs

open Sys2Proof.Machine Sys2Proof.Reference

/-- Settles O38: the model's stream is the reference's, and two appends to `TX_OUT` are one append of the two
runs in order. -/
theorem encapAppendsTheWireForm : Obligations.EncapAppendsTheWireForm := by
  refine ⟨fun s p => exec_encap p s, fun s p q => ?_⟩
  calc thenDo (exec (.encap p) s) (exec (.encap q))
      = .next ((s.putTx (wire p)).putTx (wire q)) := by rw [exec_encap, thenDo_next, exec_encap]
    _ = .next (s.putTx (wire p ++ wire q)) := by rw [State.putTx_putTx]

end Sys2Proof.Proofs
end

section
/-! SUPPORT. FEED as a fold: how it composes over chunks (R80, R92). -/

namespace Sys2Proof.Machine

@[simp] theorem thenDo_pure (r : Host.Outcome State Fault Refusal) :
    thenDo r Host.Outcome.next = r := by
  cases r with
  | next | fault | refused => rfl

/-- A stop in the first chunk is the stop of the whole, so this holds from every state. -/
theorem feedBytes_append (d : Delivery) (c e : List Byte) (s : State) :
    feedBytes d (c ++ e) s = thenDo (feedBytes d c s) (feedBytes d e) := by
  induction c generalizing s with
  | nil => rfl
  | cons b c ih =>
    rw [List.cons_append, feedBytes_cons, feedBytes_cons, thenDo_assoc]
    exact congrArg (thenDo (stepByte d b s)) (funext ih)

/-- The fold runs over results, so the induction is over any result so far. -/
theorem foldl_feedBytes (d : Delivery) (chunks : List (List Byte))
    (r : Host.Outcome State Fault Refusal) :
    chunks.foldl (fun r c => thenDo r (feedBytes d c)) r = thenDo r (feedBytes d chunks.flatten) := by
  induction chunks generalizing r with
  | nil => exact (thenDo_pure r).symm
  | cons c chunks ih =>
    calc chunks.foldl (fun r c => thenDo r (feedBytes d c)) (thenDo r (feedBytes d c))
        = thenDo (thenDo r (feedBytes d c)) (feedBytes d chunks.flatten) := ih _
      _ = thenDo r fun u => thenDo (feedBytes d c u) (feedBytes d chunks.flatten) := thenDo_assoc ..
      _ = thenDo r (feedBytes d (c ++ chunks.flatten)) :=
        congrArg (thenDo r) (funext fun u => (feedBytes_append d c _ u).symm)

end Sys2Proof.Machine
end

section
/-! SUPPORT. What the deframer, between packets, makes of one encapsulated packet and of a stream of them:
each escaped byte is one store at the cursor, and the closing delimiter hands on what was stored (R93). -/

namespace Sys2Proof.Machine

open Sys2Proof.Reference

variable {s : State} {p : List Byte} {ps : List (List Byte)}

/-! ## A run of stores at the cursor -/

@[simp] theorem State.storeNext_cur (s : State) (v : Byte) : (s.storeNext v).cur = s.cur + 1 := rfl

theorem State.accCopy_cur (s : State) : s.accCopy s.cur = contents s := rfl

/-- The state with the bytes stored from the cursor on and the cursor after them. -/
def State.storeRun (p : List Byte) (s : State) : State := p.foldl (fun u v => u.storeNext v) s

@[simp] theorem State.storeRun_nil (s : State) : s.storeRun [] = s := rfl

@[simp] theorem State.storeRun_cons (v : Byte) (p : List Byte) (s : State) :
    s.storeRun (v :: p) = (s.storeNext v).storeRun p := rfl

/-- A run of stores writes `acc` and `cur` only. -/
theorem State.storeRun_eq (p : List Byte) (s : State) :
    s.storeRun p = { s with acc := (s.storeRun p).acc, cur := s.cur + p.length } := by
  induction p generalizing s with
  | nil => rfl
  | cons v p ih =>
    rw [List.length_cons, Nat.add_comm p.length, ← Nat.add_assoc]
    exact ih (s.storeNext v)

@[simp] theorem State.storeRun_cur (s : State) (p : List Byte) :
    (s.storeRun p).cur = s.cur + p.length := (congrArg State.cur (s.storeRun_eq p) :)
@[simp] theorem State.storeRun_esc (s : State) (p : List Byte) : (s.storeRun p).esc = s.esc :=
  (congrArg State.esc (s.storeRun_eq p) :)
@[simp] theorem State.storeRun_ovf (s : State) (p : List Byte) : (s.storeRun p).ovf = s.ovf :=
  (congrArg State.ovf (s.storeRun_eq p) :)
@[simp] theorem State.storeRun_cap (s : State) (p : List Byte) : (s.storeRun p).cap = s.cap :=
  (congrArg State.cap (s.storeRun_eq p) :)

theorem State.wf_storeRun (p : List Byte) (h : Memory.wf s.acc) : Memory.wf (s.storeRun p).acc := by
  induction p generalizing s with
  | nil => exact h
  | cons v p ih => exact ih (s := s.storeNext v) (Memory.wf_write h s.cur v)

/-- The store is at the cursor, so it adds its byte behind those held. -/
theorem contents_storeNext (h : Memory.wf s.acc) (v : Byte) :
    contents (s.storeNext v) = contents s ++ [v] := by
  have hread (i : Nat) : (s.storeNext v).accRead i = if i = s.cur then v else s.accRead i :=
    Memory.read_write h s.cur v i
  have hheld : (List.range s.cur).map (s.storeNext v).accRead = contents s :=
    List.map_congr_left fun i hi => by rw [hread, if_neg (Nat.ne_of_lt (List.mem_range.1 hi))]
  calc contents (s.storeNext v)
      = (List.range s.cur).map (s.storeNext v).accRead ++ [(s.storeNext v).accRead s.cur] := by
        rw [contents, State.storeNext_cur, List.range_succ, List.map_append, List.map_singleton]
    _ = contents s ++ [v] := by rw [hheld, hread, if_pos rfl]

theorem contents_storeRun (h : Memory.wf s.acc) (p : List Byte) :
    contents (s.storeRun p) = contents s ++ p := by
  induction p generalizing s with
  | nil => exact (List.append_nil _).symm
  | cons v p ih =>
    rw [State.storeRun_cons, ih (Memory.wf_write h s.cur v), contents_storeNext h,
      List.append_assoc, List.singleton_append]

/-- Between packets the copy that is handed on is exactly the run stored, and only `acc` and `RX_EV` end up
changed. -/
theorem State.handOn_storeRun (d : Delivery) (hwf : Memory.wf s.acc) (hcur : s.cur = 0)
    (p : List Byte) :
    (s.storeRun p).handOn d = { s with
      acc := (s.storeRun p).acc, rxEv := s.rxEv ++ [deliveryEvent d s.lenBase p] } := by
  have hheld : contents (s.storeRun p) = p := by
    rw [contents_storeRun hwf, contents, hcur, List.range_zero, List.map_nil, List.nil_append]
  rw [State.handOn, State.accCopy_cur, hheld, s.storeRun_eq p, ← hcur]
  rfl

/-! ## One escaped byte, one packet, a stream of packets -/

theorem State.setEsc_true_setEsc_false (h : s.esc = false) : (s.setEsc true).setEsc false = s := by
  rw [← h]
  rfl

/-- An escape pair is one APPEND of the byte its second byte stands for. -/
theorem feedBytes_escapePair (d : Delivery) (b : Byte) (hesc : s.esc = false) :
    feedBytes d [Config.esc, b] s = appendByte (unsub b) s := by
  rw [feedBytes_cons, stepByte_esc d hesc, thenDo_next, feedBytes_cons, stepByte_escaped d b rfl,
    State.setEsc_true_setEsc_false hesc]
  exact thenDo_pure _

/-- However the framer wrote the byte, the deframer appends it (R51, R56). -/
theorem feedBytes_escapeByte (d : Delivery) (b : Byte) (hesc : s.esc = false) :
    feedBytes d (escapeByte b) s = appendByte b s := by
  rcases escapeByte_cases b with ⟨rfl, hb⟩ | ⟨rfl, hb⟩ | ⟨hdelim, hescape, hb⟩ <;> rw [hb]
  · rw [feedBytes_escapePair d _ hesc, unsub_escDelim]
  · rw [feedBytes_escapePair d _ hesc, unsub_escEsc]
  · rw [feedBytes_cons, stepByte_data d hesc hescape hdelim]
    exact thenDo_pure _

theorem feedBytes_flatMap_escapeByte (d : Delivery) (hesc : s.esc = false) (hovf : s.ovf = false)
    (hroom : s.cur + p.length ≤ s.cap) :
    feedBytes d (p.flatMap escapeByte) s = .next (s.storeRun p) := by
  induction p generalizing s with
  | nil => rfl
  | cons b p ih =>
    rw [List.length_cons] at hroom
    rw [List.flatMap_cons, feedBytes_append, feedBytes_escapeByte d b hesc,
      appendByte_room hovf (by omega), thenDo_next]
    exact ih (s := s.storeNext b) hesc hovf (by rw [s.storeNext_cur, s.storeNext_cap]; omega)

/-- The opening delimiter finds nothing to end, so an encapsulated packet that fits is a run of stores and one
RX.DELIM. -/
theorem feedBytes_wire (d : Delivery) (hclean : s.Clean) (hfits : p.length ≤ s.cap) :
    feedBytes d (wire p) s = delimiter d (s.storeRun p) := by
  obtain ⟨hcur, hesc, hovf⟩ := hclean
  rw [← encapBytes_eq_wire, encapBytes, feedBytes_cons, stepByte_delim d hesc,
    delimiter_idle d hovf hcur, thenDo_next, feedBytes_append,
    feedBytes_flatMap_escapeByte d hesc hovf (by omega), thenDo_next, feedBytes_cons,
    stepByte_delim d ((s.storeRun_esc p).trans hesc)]
  exact thenDo_pure _

theorem feedBytes_wire_nil (d : Delivery) (hclean : s.Clean) : feedBytes d (wire []) s = .next s := by
  have ⟨hcur, _, hovf⟩ := hclean
  rw [feedBytes_wire d hclean (Nat.zero_le _)]
  exact delimiter_idle d hovf hcur

/-- A packet that fits is handed on intact, whatever `deliver P` is bound to (R93). -/
theorem feedBytes_wire_packet (d : Delivery) (hwf : Memory.wf s.acc) (hclean : s.Clean) (hp : p ≠ [])
    (hfits : p.length ≤ s.cap) :
    feedBytes d (wire p) s = .next { s with
      acc := (s.storeRun p).acc, rxEv := s.rxEv ++ [deliveryEvent d s.lenBase p] } := by
  have ⟨hcur, _, hovf⟩ := hclean
  have hheld : (s.storeRun p).cur = p.length := by rw [State.storeRun_cur, hcur, Nat.zero_add]
  have hpos : 0 < (s.storeRun p).cur := hheld ▸ List.length_pos_iff.2 hp
  have hcap : (s.storeRun p).cur ≤ (s.storeRun p).cap := by rwa [hheld, State.storeRun_cap]
  rw [feedBytes_wire d hclean hfits, delimiter_packet d ((s.storeRun_ovf p).trans hovf) hpos hcap,
    State.handOn_storeRun d hwf hcur]

/-- The events of packets fed one after the other between packets: one for each that is not empty. -/
def deliveredEvents (d : Delivery) (lenBase : Nat) (ps : List (List Byte)) : List Event :=
  (ps.filter fun p => p ≠ []).map (deliveryEvent d lenBase)

/-- Each packet leaves the deframer between packets with a canonical accumulator, so the next one is read in
the same way. -/
theorem feedBytes_flatMap_wire (d : Delivery) (hwf : Memory.wf s.acc) (hclean : s.Clean)
    (hfits : ∀ p ∈ ps, p.length ≤ s.cap) :
    ∃ m, Memory.wf m ∧ feedBytes d (ps.flatMap wire) s =
      .next { s with acc := m, rxEv := s.rxEv ++ deliveredEvents d s.lenBase ps } := by
  induction ps generalizing s with
  | nil => exact ⟨s.acc, hwf, by simp [deliveredEvents]⟩
  | cons p ps ih =>
    obtain ⟨hp, hps⟩ := List.forall_mem_cons.1 hfits
    rw [List.flatMap_cons, feedBytes_append]
    by_cases hempty : p = []
    · subst hempty
      rw [feedBytes_wire_nil d hclean, thenDo_next]
      exact ih hwf hclean hps
    · obtain ⟨m, hm, hfeed⟩ := ih (s := { s with
        acc := (s.storeRun p).acc, rxEv := s.rxEv ++ [deliveryEvent d s.lenBase p] })
        (State.wf_storeRun p hwf) hclean hps
      refine ⟨m, hm, ?_⟩
      rw [feedBytes_wire_packet d hwf hclean hempty hp, thenDo_next, hfeed]
      simp [deliveredEvents, hempty]

end Sys2Proof.Machine
end

section
/-! SUPPORT. The statements about FEED: the fold, the cutting into chunks, and the round trip with the framer
(R80, R92, R93). -/

namespace Sys2Proof.Proofs

open Sys2Proof.Machine Sys2Proof.Reference

/-- Settles O25: the first two clauses are FEED's recursion, the third is its law for joined chunks. -/
theorem feedIsALeftFoldOfStep : Obligations.FeedIsALeftFoldOfStep :=
  ⟨feedBytes_nil .validated, fun s b c => feedBytes_cons .validated b c s,
    fun s c e => feedBytes_append .validated c e s⟩

/-- Settles O26, by induction over the chunks from any result so far. -/
theorem chunkBoundariesChangeNothing : Obligations.ChunkBoundariesChangeNothing :=
  fun chunks s => (foldl_feedBytes .validated chunks (.next s)).symm

/-- Settles O30, by induction over the packets: each escaped byte is stored at the cursor, the closing
delimiter hands the stored run on, and the deframer is between packets again. -/
theorem deframerInvertsFramer : Obligations.DeframerInvertsFramer := by
  intro s ps hwf hclean hfits
  obtain ⟨m, -, hfeed⟩ := feedBytes_flatMap_wire .raw hwf hclean hfits
  exact ⟨_, hfeed, rfl⟩

end Sys2Proof.Proofs
end

section
/-! SUPPORT. CSUM's value and SEAL's result are those of the reference functions, and a sealed region with the
right length field is a valid packet (R100, R102). -/

namespace Sys2Proof.Machine

open Sys2Proof.Reference

theorem csum_eq_ofNat_checksum (buf : List Byte) (len : Nat) :
    csum buf len = BitVec.ofNat 16 (checksum (buf.take len)) := by
  rw [← csum_toNat, BitVec.ofNat_toNat, BitVec.setWidth_eq]

theorem exec_csum_of_le {buf : List Byte} {len : Nat} (h : len ≤ buf.length) (s : State) :
    exec (.csum buf len) s = .next (s.answer (.csum (csum buf len))) := if_pos h

theorem exec_csum_of_lt {buf : List Byte} {len : Nat} (h : buf.length < len) (s : State) :
    exec (.csum buf len) s = .refused .csumLengthBeyondBuffer := if_neg (by omega)

theorem csum_replicate_zero (n len : Nat) : csum (List.replicate n 0) len = 0 := by
  have hsum : byteSum ((List.replicate n 0).take len) = 0 := by simp [byteSum]
  rw [csum_eq_ofNat_checksum, checksum, hsum]
  rfl

theorem loByte_eq_ofNat (c : Half) : loByte c = BitVec.ofNat 8 (c.toNat % 256) :=
  BitVec.eq_of_toNat_eq (by simp [loByte])

theorem hiByte_eq_ofNat (c : Half) : hiByte c = BitVec.ofNat 8 (c.toNat / 256) :=
  BitVec.eq_of_toNat_eq (by simp [hiByte, Nat.shiftRight_eq_div_pow])

theorem sealBytes_eq_withChecksum (hp : List Byte) : sealBytes hp = withChecksum hp := by
  rw [sealBytes, loByte_eq_ofNat, hiByte_eq_ofNat, csum_toNat, List.take_length]
  rfl

theorem exec_sealPkt (hp : List Byte) (s : State) :
    exec (.sealPkt hp) s = .next (s.answer (.sealed (withChecksum hp))) := by
  rw [← sealBytes_eq_withChecksum]
  rfl

theorem exec_validate (p : List Byte) (s : State) :
    exec (.validate p) s = .next (s.answer (.verdict (validatePkt s.lenBase p))) := rfl

@[simp] theorem sealBytes_length (hp : List Byte) : (sealBytes hp).length = hp.length + 2 := by
  simp [sealBytes]

theorem declared_sealBytes {hp : List Byte} (h : 5 ≤ hp.length) :
    declared (sealBytes hp) = declared hp := by
  have hbyte : ∀ i < 5, pktByte (sealBytes hp) i = pktByte hp i := fun i hi =>
    List.getD_append _ _ _ _ (hi.trans_le h)
  rw [declared, hbyte 3 (by decide), hbyte 4 (by decide)]
  rfl

/-- The two bytes that SEAL appends are read back as the value they were split from. -/
theorem stored_sealBytes (hp : List Byte) :
    stored (sealBytes hp) = (csum hp hp.length).toNat := by
  rw [stored, sealBytes_length, ← le16_split]
  simp [pktByte, sealBytes]

theorem csum_sealBytes (hp : List Byte) : csum (sealBytes hp) hp.length = csum hp hp.length := by
  simp [csum, sealBytes]

theorem validatePkt_sealBytes {lenBase : Nat} {hp : List Byte} (hlen : 5 ≤ hp.length)
    (hfield : declared hp + lenBase = hp.length + 2) :
    validatePkt lenBase (sealBytes hp) = .ok := by
  rw [validatePkt_ok_iff, declared_sealBytes hlen, stored_sealBytes, sealBytes_length]
  exact ⟨Nat.add_le_add_right hlen 2, hfield.symm, congrArg BitVec.toNat (csum_sealBytes hp)⟩

end Sys2Proof.Machine
end

section
/-! SUPPORT. One byte of a packet changed: what becomes of its two 16-bit fields and of its checksum, and the
verdict then (R101 law 6, R104, R105, R106). -/

namespace Sys2Proof.Machine

open Sys2Proof.Reference

variable {p : List Byte} {k i j len lenBase : Nat} {x : Byte}

theorem validatePkt_lengthMismatch (h : p.length ≠ declared p + lenBase) :
    validatePkt lenBase p = .err .lengthMismatch := by
  rw [validatePkt, if_pos h, ite_self]

theorem validatePkt_checksumMismatch (hmin : Config.minPkt ≤ p.length)
    (hlen : p.length = declared p + lenBase)
    (hsum : (csum p (p.length - Config.csumLen)).toNat ≠ stored p) :
    validatePkt lenBase p = .err .checksumMismatch := by
  rw [validatePkt, if_neg hmin.not_gt, if_neg (not_not.mpr hlen), if_pos hsum]

theorem pktByte_set_same (hk : k < p.length) : pktByte (p.set k x) k = x := by
  simp [pktByte, hk]

theorem pktByte_set_of_ne (h : k ≠ i) : pktByte (p.set k x) i = pktByte p i := by
  simp [pktByte, h]

theorem le16_set_of_ne (hi : k ≠ i) (hj : k ≠ j) :
    le16 (pktByte (p.set k x) i) (pktByte (p.set k x) j) = le16 (pktByte p i) (pktByte p j) := by
  rw [pktByte_set_of_ne hi, pktByte_set_of_ne hj]

/-- A 16-bit field changes with either of its bytes. -/
theorem le16_set_ne (hk : k < p.length) (hx : x ≠ pktByte p k) (hkij : k = i ∨ k = j) :
    le16 (pktByte (p.set k x) i) (pktByte (p.set k x) j) ≠ le16 (pktByte p i) (pktByte p j) := by
  intro heq
  obtain ⟨hlo, hhi⟩ := le16_inj heq
  rcases hkij with rfl | rfl
  · exact hx ((pktByte_set_same hk).symm.trans hlo)
  · exact hx ((pktByte_set_same hk).symm.trans hhi)

theorem byteSum_set (hk : k < p.length) :
    byteSum (p.set k x) + byteAt p k = byteSum p + x.toNat := by
  induction p generalizing k with
  | nil => cases hk
  | cons b bs ih =>
    cases k with
    | zero => simp [byteSum, byteAt]; omega
    | succ k =>
      have := ih (Nat.lt_of_succ_lt_succ hk)
      simp only [byteSum, byteAt, List.set_cons_succ, List.map_cons, List.sum_cons,
        List.getD_cons_succ] at this ⊢
      omega

/-- The plain sum moves by less than 256, so not by a multiple of 65536. -/
theorem checksum_set_ne (hk : k < p.length) (hx : x ≠ pktByte p k) :
    checksum (p.set k x) ≠ checksum p := by
  have hsum := byteSum_set (x := x) hk
  have hne : x.toNat ≠ byteAt p k := fun h => hx (BitVec.eq_of_toNat_eq h)
  have hxlt : x.toNat < 256 := x.isLt
  have hblt : byteAt p k < 256 := (pktByte p k).isLt
  simp only [checksum]
  omega

theorem csum_set_ne (hk : k < p.length) (hlen : k < len) (hx : x ≠ pktByte p k) :
    (csum (p.set k x) len).toNat ≠ (csum p len).toNat := by
  have hbyte : pktByte (p.take len) k = pktByte p k := by simp [pktByte, hlen]
  rw [csum_toNat, csum_toNat, List.take_set]
  exact checksum_set_ne (by simp [hk, hlen]) (hbyte ▸ hx)

theorem csum_set_of_le (h : len ≤ k) : csum (p.set k x) len = csum p len := by
  rw [csum, List.take_set_of_le h]
  rfl

/-- A byte of the region changes the sum and not the stored value; a byte of the checksum, the reverse. -/
theorem csum_ne_stored_set (hk : k < p.length) (hx : x ≠ pktByte p k)
    (hsum : (csum p (p.length - 2)).toNat = stored p) :
    (csum (p.set k x) (p.length - 2)).toNat ≠ stored (p.set k x) := by
  rw [stored, List.length_set]
  by_cases hregion : k < p.length - 2
  · rw [le16_set_of_ne (by omega) (by omega)]
    exact fun h => csum_set_ne hk hregion hx (h.trans hsum.symm)
  · rw [csum_set_of_le (Nat.le_of_not_lt hregion), hsum]
    exact (le16_set_ne hk hx (by omega)).symm

theorem validatePkt_set (hok : validatePkt lenBase p = .ok) (hk : k < p.length)
    (hx : x ≠ pktByte p k) :
    validatePkt lenBase (p.set k x) =
      if k = 3 ∨ k = 4 then .err .lengthMismatch else .err .checksumMismatch := by
  obtain ⟨hmin, hlen, hsum⟩ := (validatePkt_ok_iff lenBase p).1 hok
  split
  · next hfield =>
    have hne : declared (p.set k x) ≠ declared p := le16_set_ne hk hx hfield
    exact validatePkt_lengthMismatch (by rw [List.length_set]; omega)
  · next hfield =>
    obtain ⟨h3, h4⟩ := not_or.1 hfield
    have hsame : declared (p.set k x) = declared p := le16_set_of_ne h3 h4
    refine validatePkt_checksumMismatch ?_ ?_ ?_
    · rwa [List.length_set]
    · rwa [List.length_set, hsame]
    · rw [List.length_set]
      exact csum_ne_stored_set hk hx hsum

end Sys2Proof.Machine
end

section
/-! SUPPORT. The statements about CSUM, SEAL and VALIDATE (R100, R102, R106). -/

namespace Sys2Proof.Proofs

open Sys2Proof.Machine Sys2Proof.Reference

/-- Settles O43: the guard decides between the two clauses, and the 16-bit value is the reference checksum. -/
theorem csumNegatesTheByteSum : Obligations.CsumNegatesTheByteSum := by
  refine fun s buf len => ⟨fun hle => ?_, fun hlt => exec_csum_of_lt hlt s⟩
  rw [exec_csum_of_le hle, csum_eq_ofNat_checksum]
  rfl

/-- Settles O48: the appended bytes are the two halves of the checksum, so VALIDATE reads back the value it
computes from the region. -/
theorem sealAppendsTheChecksum : Obligations.SealAppendsTheChecksum := by
  refine ⟨fun s hp => exec_sealPkt hp s, fun s hp hlen hfield => ?_⟩
  rw [exec_validate, ← sealBytes_eq_withChecksum, validatePkt_sealBytes hlen hfield]
  rfl

/-- Settles O50: a changed byte of the length field breaks the length test, and any other changes exactly one
side of the checksum test. -/
theorem oneChangedByteIsRejected : Obligations.OneChangedByteIsRejected := by
  refine ⟨fun n len _ => csum_replicate_zero n len, fun lenBase p hmin hlen hsum => ?_,
    fun lenBase p k x hok hk hx => validatePkt_set hok hk fun h => hx (congrArg BitVec.toNat h)⟩
  exact (validatePkt_ok_iff lenBase p).2 ⟨hmin, hlen, (csum_toNat p _).trans hsum.symm⟩

end Sys2Proof.Proofs
end

section
/-! SUPPORT. The deframer with validation against the deframer alone: whatever stands on `RX_EV` before, it
goes on to the same state with each new event judged (R91, R120). -/

namespace Sys2Proof.Machine

open Sys2Proof.Reference

variable {s t u : State} {k l : State → Host.Outcome State Fault Refusal}

/-- From `s` with any events on `RX_EV`, `k` goes on to `t` but for the events: it appends the judgement of
each event that `t` has beyond those of `s`. -/
def RunsJudged (k : State → Host.Outcome State Fault Refusal) (s t : State) : Prop :=
  ∃ evs, t.rxEv = s.rxEv ++ evs ∧
    ∀ before, k { s with rxEv := before } =
      .next { t with rxEv := before ++ evs.map (judged s.lenBase) }

theorem RunsJudged.of_no_event (hrxEv : t.rxEv = s.rxEv)
    (hk : ∀ before, k { s with rxEv := before } = .next { t with rxEv := before }) :
    RunsJudged k s t :=
  ⟨[], by rw [hrxEv, List.append_nil], fun before => by rw [hk, List.map_nil, List.append_nil]⟩

theorem RunsJudged.congr (hk : RunsJudged k s t)
    (hlk : ∀ before, l { s with rxEv := before } = k { s with rxEv := before }) :
    RunsJudged l s t := by
  obtain ⟨evs, hrxEv, hk⟩ := hk
  exact ⟨evs, hrxEv, fun before => (hlk before).trans (hk before)⟩

/-- The second run finds the judged events of the first on `RX_EV`, and LEN_BASE in force as it was. -/
theorem RunsJudged.thenDo (hk : RunsJudged k s u) (hl : RunsJudged l u t)
    (hlenBase : u.lenBase = s.lenBase) : RunsJudged (fun w => thenDo (k w) l) s t := by
  obtain ⟨evs, hu, hk⟩ := hk
  obtain ⟨evs', ht, hl⟩ := hl
  refine ⟨evs ++ evs', by rw [ht, hu, List.append_assoc], fun before => ?_⟩
  calc Machine.thenDo (k { s with rxEv := before }) l
      = l { u with rxEv := before ++ evs.map (judged s.lenBase) } := by rw [hk, thenDo_next]
    _ = .next { t with
        rxEv := before ++ evs.map (judged s.lenBase) ++ evs'.map (judged u.lenBase) } := hl _
    _ = .next { t with rxEv := before ++ (evs ++ evs').map (judged s.lenBase) } := by
      rw [hlenBase, List.map_append, List.append_assoc]

/-- `ERR(1)` stays as it is. -/
theorem appendByte_runsJudged {v : Byte} (h : appendByte v s = .next t) :
    RunsJudged (appendByte v) s t := by
  rcases appendByte_cases h with ⟨hovf, rfl⟩ | ⟨hovf, hfull, rfl⟩ | ⟨hovf, hroom, rfl⟩
  · exact .of_no_event rfl fun _ => appendByte_discard hovf
  · exact ⟨[.err .framingOverflow], s.overflow_rxEv, fun _ => appendByte_full hovf hfull⟩
  · exact .of_no_event (s.storeNext_rxEv v) fun _ => appendByte_room hovf hroom

theorem appendUnescaped_runsJudged {v : Byte} (h : appendUnescaped v s = .next t) :
    RunsJudged (appendUnescaped v) s t :=
  appendByte_runsJudged (s := s.setEsc false) h

/-- The copy of the packet does not depend on `RX_EV`, so both bindings hand on the same packet. -/
theorem handOn_validated_eq (s : State) (before : List Event) :
    State.handOn .validated { s with rxEv := before } =
      { s.handOn .raw with rxEv := before ++ [handedOn s.lenBase (s.accCopy s.cur)] } := by
  rw [← deliveryEvent_validated]
  rfl

theorem delimiter_runsJudged (h : delimiter .raw s = .next t) :
    RunsJudged (delimiter .validated) s t := by
  rcases delimiter_cases h with ⟨hovf, rfl⟩ | ⟨hovf, hzero, rfl⟩ | ⟨hovf, hpos, hcap, rfl⟩
  · exact .of_no_event s.resync_rxEv fun _ => delimiter_discard .validated hovf
  · exact .of_no_event rfl fun _ => delimiter_idle .validated hovf hzero
  · refine ⟨[.raw (s.accCopy s.cur)], s.handOn_rxEv .raw, fun before => ?_⟩
    calc delimiter .validated { s with rxEv := before }
        = .next (State.handOn .validated { s with rxEv := before }) :=
          delimiter_packet .validated hovf hpos hcap
      _ = _ := congrArg Host.Outcome.next (handOn_validated_eq s before)

/-- `esc` does not depend on `RX_EV`, so both bindings read the byte as the same form. -/
theorem stepByte_runsJudged {b : Byte} (h : stepByte .raw b s = .next t) :
    RunsJudged (stepByte .validated b) s t := by
  rcases stepByte_forms .raw b s with ⟨he, hf⟩ | ⟨he, rfl, hf⟩ | ⟨he, rfl, hf⟩ | ⟨he, hb, hb', hf⟩ <;>
    rw [hf] at h
  · exact (appendUnescaped_runsJudged h).congr fun _ => stepByte_escaped .validated b he
  · cases h
    exact .of_no_event rfl fun _ => stepByte_esc .validated he
  · exact (delimiter_runsJudged h).congr fun _ => stepByte_delim .validated he
  · exact (appendByte_runsJudged h).congr fun _ => stepByte_data .validated he hb hb'

theorem feedBytes_runsJudged {c : List Byte} (h : feedBytes .raw c s = .next t) :
    RunsJudged (feedBytes .validated c) s t := by
  induction c generalizing s with
  | nil =>
    cases h
    exact .of_no_event rfl fun _ => rfl
  | cons b c ih =>
    obtain ⟨u, hstep, hrest⟩ := thenDo_eq_next h
    exact (stepByte_runsJudged hstep).thenDo (ih hrest) (stepByte_keeps_config hstep).2

end Sys2Proof.Machine
end

section
/-! SUPPORT. The statement about INGEST as FEED with validation (R120). -/

namespace Sys2Proof.Proofs

open Sys2Proof.Machine

/-- Settles O56, by induction over the chunk from any events on `RX_EV`: a byte is read as the same form by
both bindings of `deliver P`, and only the delimiter that hands a packet on tells them apart. -/
theorem ingestValidatesEachPacket : Obligations.IngestValidatesEachPacket := by
  intro s t c h
  obtain ⟨evs, hrxEv, hrun⟩ := feedBytes_runsJudged h
  exact ⟨evs, hrxEv, hrun s.rxEv⟩

end Sys2Proof.Proofs
end

section
/-! SUPPORT. The five state updates that the deframer is made of, and what it takes for a property to be kept by
all of them: then APPEND, RX.DELIM, STEP and FEED keep it (R80 to R91). -/

namespace Sys2Proof.Machine

open Sys2Proof.Reference

variable {s t : State} {d : Delivery} {v b : Byte} {P : State → Prop}

/-- Every update the deframer can make keeps `P`, under the guard it is made with. -/
structure KeptByDeframer (d : Delivery) (P : State → Prop) : Prop where
  setEsc : ∀ e u, P u → P (u.setEsc e)
  overflow : ∀ u, P u → u.cur = u.cap → P u.overflow
  storeNext : ∀ v u, P u → u.ovf = false → u.cur < u.cap → P (u.storeNext v)
  resync : ∀ u, P u → P u.resync
  handOn : ∀ u, P u → u.ovf = false → 0 < u.cur → u.cur ≤ u.cap → P (u.handOn d)

theorem KeptByDeframer.appendByte (hP : KeptByDeframer d P) (hs : P s)
    (h : appendByte v s = .next t) : P t := by
  rcases appendByte_cases h with ⟨-, rfl⟩ | ⟨-, hfull, rfl⟩ | ⟨hovf, hroom, rfl⟩
  · exact hs
  · exact hP.overflow s hs hfull
  · exact hP.storeNext v s hs hovf hroom

theorem KeptByDeframer.appendUnescaped (hP : KeptByDeframer d P) (hs : P s)
    (h : appendUnescaped v s = .next t) : P t :=
  hP.appendByte (hP.setEsc false s hs) h

theorem KeptByDeframer.delimiter (hP : KeptByDeframer d P) (hs : P s)
    (h : delimiter d s = .next t) : P t := by
  rcases delimiter_cases h with ⟨-, rfl⟩ | ⟨-, -, rfl⟩ | ⟨hovf, hpos, hcap, rfl⟩
  · exact hP.resync s hs
  · exact hs
  · exact hP.handOn s hs hovf hpos hcap

theorem KeptByDeframer.stepByte (hP : KeptByDeframer d P) (hs : P s)
    (h : stepByte d b s = .next t) : P t := by
  rcases stepByte_forms d b s with ⟨-, hf⟩ | ⟨-, -, hf⟩ | ⟨-, -, hf⟩ | ⟨-, -, -, hf⟩ <;> rw [hf] at h
  · exact hP.appendUnescaped hs h
  · cases h
    exact hP.setEsc true s hs
  · exact hP.delimiter hs h
  · exact hP.appendByte hs h

theorem KeptByDeframer.feedBytes {c : List Byte} (hP : KeptByDeframer d P) (hs : P s)
    (h : feedBytes d c s = .next t) : P t :=
  feedBytes_keeps (fun _ _ _ hu hstep => hP.stepByte hu hstep) c s t hs h

/-! ## The cursor's bound and the canonical accumulator -/

@[simp] theorem State.storeNext_ovf (s : State) (v : Byte) : (s.storeNext v).ovf = s.ovf := rfl

theorem cursorBound_keptByDeframer (d : Delivery) : KeptByDeframer d fun u => u.cur ≤ u.cap where
  setEsc _ _ hu := hu
  overflow _ hu _ := hu
  storeNext _ _ _ _ hroom := hroom
  resync _ _ := Nat.zero_le _
  handOn _ _ _ _ _ := Nat.zero_le _

theorem wf_keptByDeframer (d : Delivery) : KeptByDeframer d fun u => Memory.wf u.acc where
  setEsc _ _ hu := hu
  overflow _ hu _ := hu
  storeNext v u hu _ _ := Memory.wf_write hu u.cur v
  resync _ hu := hu
  handOn _ hu _ _ _ := hu

/-- FEED goes on from every state with `cur ≤ CAP`: each STEP does, and keeps that bound. -/
theorem feedBytes_completes (d : Delivery) (c : List Byte) (hcap : s.cur ≤ s.cap) :
    ∃ t, feedBytes d c s = .next t := by
  induction c generalizing s with
  | nil => exact ⟨s, rfl⟩
  | cons b c ih =>
    obtain ⟨u, hstep⟩ := stepByte_completes d b hcap
    rw [feedBytes_cons, hstep]
    exact ih ((cursorBound_keptByDeframer d).stepByte hcap hstep)

/-! ## The fields the deframer does not write -/

/-- From `s` to `t` nothing differs but `acc`, `cur`, `esc`, `ovf` and `RX_EV`. -/
def ReceiverFrame (s t : State) : Prop :=
  t = { s with acc := t.acc, cur := t.cur, esc := t.esc, ovf := t.ovf, rxEv := t.rxEv }

theorem ReceiverFrame.refl (s : State) : ReceiverFrame s s := rfl

theorem ReceiverFrame.trans {u : State} (hsu : ReceiverFrame s u) (hut : ReceiverFrame u t) :
    ReceiverFrame s t := by
  rw [ReceiverFrame, hut, hsu]

theorem receiverFrame_keptByDeframer (d : Delivery) (s : State) :
    KeptByDeframer d (ReceiverFrame s) where
  setEsc _ _ hu := hu.trans rfl
  overflow _ hu _ := hu.trans rfl
  storeNext _ _ hu _ _ := hu.trans rfl
  resync _ hu := hu.trans rfl
  handOn _ hu _ _ _ := hu.trans rfl

theorem feedBytes_receiverFrame {c : List Byte} (h : feedBytes d c s = .next t) :
    ReceiverFrame s t :=
  (receiverFrame_keptByDeframer d s).feedBytes (.refl s) h

end Sys2Proof.Machine
end

section
/-! SUPPORT. The invariant of R94 and R18: power-on meets it and every operation keeps it. The events are
covered by the bounds of what an operation emits; the rest is about `acc`, `cur` and CAP. -/

namespace Sys2Proof.Machine

open Sys2Proof.Reference

variable {s t : State}

/-- The part of the invariant that is about the registers and the accumulator. -/
structure State.RegistersOk (s : State) : Prop where
  acc : s.AccOk
  cursor : s.CursorOk
  config : s.ConfigOk

theorem State.RegistersOk.storeNext (h : s.RegistersOk) (v : Byte) (hovf : s.ovf = false)
    (hroom : s.cur < s.cap) : (s.storeNext v).RegistersOk where
  acc := by
    refine ⟨Memory.wf_write h.acc.1 s.cur v, fun c hc => ?_⟩
    rcases Memory.mem_write hc with hold | ⟨rfl, -⟩
    · exact h.acc.2 c hold
    · exact hroom
  cursor := ⟨hroom, fun hset => absurd (hovf.symm.trans hset) Bool.false_ne_true⟩
  config := h.config

/-- With the cursor at 0 and `ovf` clear the cursor's part holds whatever CAP is. -/
theorem State.cursorOk_of_cur_zero (hcur : s.cur = 0) (hovf : s.ovf = false) : s.CursorOk :=
  ⟨hcur ▸ Nat.zero_le _, fun hset => absurd (hovf.symm.trans hset) Bool.false_ne_true⟩

theorem registersOk_keptByDeframer (d : Delivery) : KeptByDeframer d State.RegistersOk where
  setEsc _ _ hu := ⟨hu.acc, hu.cursor, hu.config⟩
  overflow _ hu hfull := ⟨hu.acc, ⟨hu.cursor.1, fun _ => hfull⟩, hu.config⟩
  storeNext v _ hu hovf hroom := hu.storeNext v hovf hroom
  resync _ hu := ⟨hu.acc, State.cursorOk_of_cur_zero rfl rfl, hu.config⟩
  handOn _ hu hovf _ _ := ⟨hu.acc, State.cursorOk_of_cur_zero rfl hovf, hu.config⟩

/-- RESET keeps only cells below the CAP it samples (R123; LOG 11). -/
theorem State.RegistersOk.restart (h : s.RegistersOk) : s.restart.RegistersOk where
  acc := ⟨Memory.wf_below h.acc.1 _, fun _ hc => (Memory.mem_below hc).2⟩
  cursor := State.cursorOk_of_cur_zero rfl rfl
  config := ⟨h.config.2, h.config.2⟩

/-- An update that writes none of the registers, the accumulator and CAP. -/
theorem State.RegistersOk.congr (h : s.RegistersOk)
    (ht : t = { s with lenBase := t.lenBase, cfgLenBase := t.cfgLenBase, input := t.input,
                       esc := t.esc, rxEv := t.rxEv, txOut := t.txOut, answers := t.answers }) :
    t.RegistersOk := by
  rw [ht]
  exact ⟨h.acc, h.cursor, h.config⟩

theorem exec_keeps_registersOk (i : Instr) (hs : s.RegistersOk) (h : exec i s = .next t) :
    t.RegistersOk := by
  have kept := registersOk_keptByDeframer
  cases i with
  | rxEscD | rxEscE | rxEscV => exact (kept .validated).appendUnescaped hs h
  | rxData | append => exact (kept .validated).appendByte hs h
  | rxDelim => exact (kept .validated).delimiter hs h
  | step => exact (kept .validated).stepByte hs h
  | feed | ingest => exact (kept .validated).feedBytes hs h
  | emit =>
    obtain ⟨hovf, hpos, hcap, rfl⟩ := execEmit_cases h
    exact (kept .validated).handOn s hs hovf hpos hcap
  | decode =>
    obtain ⟨u, hfeed, rfl⟩ := execDecode_cases h
    exact ((kept .raw).feedBytes hs.restart hfeed).congr rfl
  | reset =>
    cases h
    exact hs.restart
  | csum =>
    obtain ⟨-, rfl⟩ := execCsum_cases h
    exact hs.congr rfl
  | config =>
    obtain ⟨hpos, rfl⟩ := execConfig_cases h
    exact ⟨hs.acc, hs.cursor, hs.config.1, Nat.pos_of_ne_zero hpos⟩
  | rxEsc | txSubD | txSubE | txLit | encap | sealPkt | validate =>
    cases h
    exact hs.congr rfl

/-! ## The events -/

/-- A packet that VALIDATE accepts is sane (R18). -/
theorem Event.WithinBounds.sane {lenBase cap : Nat} {e : Event} (h : e.WithinBounds lenBase cap) :
    e.Sane := by
  cases e with
  | pkt p =>
    obtain ⟨hmin, -, hsum⟩ :=
      (validatePkt_ok_iff lenBase p).1 ((validatePkt_eq_verdict lenBase p).trans h.1)
    exact ⟨hmin, hsum⟩
  | raw p => exact h.1
  | err k => trivial

theorem EmitsWithinBounds.eventsOk (h : EmitsWithinBounds s t) (hs : s.EventsOk) : t.EventsOk := by
  obtain ⟨evs, hrxEv, hevs⟩ := h
  intro e he
  rw [hrxEv] at he
  exact (List.mem_append.1 he).elim (hs e) fun hnew => (hevs e hnew).sane

/-! ## The whole invariant -/

theorem exec_keeps_inv (i : Instr) (hs : s.Inv) (h : exec i s = .next t) : t.Inv := by
  obtain ⟨hacc, hcursor, hconfig⟩ :=
    exec_keeps_registersOk i ⟨hs.acc, hs.cursor, hs.config⟩ h
  exact ⟨hacc, hcursor, hconfig, (exec_emits i h).eventsOk hs.events⟩

theorem Memory.wf_nil : Memory.wf [] := ⟨List.Pairwise.nil, fun _ hc => absurd hc List.not_mem_nil⟩

theorem inv_powerOn {cap : Nat} (lenBase : Nat) (hcap : 1 ≤ cap) :
    (State.powerOn cap lenBase).Inv where
  acc := ⟨Memory.wf_nil, fun _ hc => absurd hc List.not_mem_nil⟩
  cursor := State.cursorOk_of_cur_zero rfl rfl
  config := ⟨hcap, hcap⟩
  events _ he := absurd he List.not_mem_nil

end Sys2Proof.Machine
end

section
/-! SUPPORT. The statements about the invariant: power-on and the step (R94, R18). -/

namespace Sys2Proof.Proofs

open Sys2Proof.Machine

/-- Settles O3: an idle step changes nothing, and an accepting step runs one operation, each of which keeps the
invariant; the chunks do so by induction over their bytes. -/
theorem stepKeepsTheInvariant : Obligations.StepKeepsTheInvariant := by
  intro s s' hs hstep
  rcases step_cases hstep with ⟨-, rfl⟩ | ⟨st, rest, i, -, -, hexec⟩
  · exact hs
  · exact exec_keeps_inv i (s := { s with input := rest })
      ⟨hs.acc, hs.cursor, hs.config, hs.events⟩ hexec

/-- Settles O2: nothing is stored, held or emitted after power-on, and CAP is as configured. -/
theorem powerOnMeetsTheInvariant : Obligations.PowerOnMeetsTheInvariant :=
  ⟨fun _ lenBase hcap => inv_powerOn lenBase hcap, inv_powerOn Config.resetLenBase (by decide)⟩

end Sys2Proof.Proofs
end

section
/-! SUPPORT. The decoder against the encoder: one lemma for each of the three kinds of selector, then both
directions (R53, R54, R63). -/

namespace Sys2Proof.Machine

open Sys2Proof.Reference

/-! ## What the decoder picks is well formed and is encoded as what it was picked from -/

theorem wf_rxEscV_iff (v : Byte) : (Instr.rxEscV v).wf = true ↔ v ≠ 0xDC ∧ v ≠ 0xDD := by
  simp [Instr.wf, Config.escDelim, Config.escEsc]

theorem wf_rxData_iff (v : Byte) : (Instr.rxData v).wf = true ↔ v ≠ 0xDB ∧ v ≠ 0xC0 := by
  simp [Instr.wf, Config.esc, Config.delim]

theorem wf_txLit_iff (v : Byte) : (Instr.txLit v).wf = true ↔ v ≠ 0xC0 ∧ v ≠ 0xDB := by
  simp [Instr.wf, Config.esc, Config.delim]

/-- The six receive forms, each with the pairs (`esc`, `b`) that select it (R53). -/
theorem rxForm_cases (esc : Bool) (b : Byte) :
    (esc = true ∧ b = 0xDC ∧ rxForm esc b = .rxEscD) ∨
    (esc = true ∧ b = 0xDD ∧ rxForm esc b = .rxEscE) ∨
    (esc = true ∧ (b ≠ 0xDC ∧ b ≠ 0xDD) ∧ rxForm esc b = .rxEscV b) ∨
    (esc = false ∧ b = 0xDB ∧ rxForm esc b = .rxEsc) ∨
    (esc = false ∧ b = 0xC0 ∧ rxForm esc b = .rxDelim) ∨
    (esc = false ∧ (b ≠ 0xDB ∧ b ≠ 0xC0) ∧ rxForm esc b = .rxData b) := by
  cases esc with
  | true =>
    by_cases hd : b = 0xDC
    · exact .inl ⟨rfl, hd, by rw [rxForm_true, if_pos hd]⟩
    · by_cases he : b = 0xDD
      · exact .inr (.inl ⟨rfl, he, by rw [rxForm_true, if_neg hd, if_pos he]⟩)
      · exact .inr (.inr (.inl ⟨rfl, ⟨hd, he⟩, by rw [rxForm_true, if_neg hd, if_neg he]⟩))
  | false =>
    by_cases he : b = 0xDB
    · exact .inr (.inr (.inr (.inl ⟨rfl, he, by rw [rxForm_false, if_pos he]⟩)))
    · by_cases hd : b = 0xC0
      · exact .inr (.inr (.inr (.inr (.inl ⟨rfl, hd, by rw [rxForm_false, if_neg he, if_pos hd]⟩))))
      · exact .inr (.inr (.inr (.inr (.inr
          ⟨rfl, ⟨he, hd⟩, by rw [rxForm_false, if_neg he, if_neg hd]⟩))))

theorem rxForm_wf (esc : Bool) (b : Byte) : (rxForm esc b).wf = true := by
  rcases rxForm_cases esc b with ⟨-, -, h⟩ | ⟨-, -, h⟩ | ⟨-, hb, h⟩ | ⟨-, -, h⟩ | ⟨-, -, h⟩ | ⟨-, hb, h⟩ <;>
    rw [h]
  · rfl
  · rfl
  · exact (wf_rxEscV_iff b).2 hb
  · rfl
  · rfl
  · exact (wf_rxData_iff b).2 hb

theorem encode_rxForm (esc : Bool) (b : Byte) :
    encode (rxForm esc b) = .word [b, if esc then 1 else 0] := by
  rcases rxForm_cases esc b with ⟨rfl, rfl, h⟩ | ⟨rfl, rfl, h⟩ | ⟨rfl, -, h⟩ | ⟨rfl, rfl, h⟩ |
    ⟨rfl, rfl, h⟩ | ⟨rfl, -, h⟩ <;> rw [h] <;> rfl

/-- The three transmit forms, each with the bytes that select it (R54). -/
theorem txForm_cases (b : Byte) :
    (b = 0xC0 ∧ txForm b = .txSubD) ∨ (b = 0xDB ∧ txForm b = .txSubE) ∨
    ((b ≠ 0xC0 ∧ b ≠ 0xDB) ∧ txForm b = .txLit b) := by
  by_cases hd : b = 0xC0
  · exact .inl ⟨hd, if_pos hd⟩
  · by_cases he : b = 0xDB
    · exact .inr (.inl ⟨he, (if_neg hd).trans (if_pos he)⟩)
    · exact .inr (.inr ⟨⟨hd, he⟩, (if_neg hd).trans (if_neg he)⟩)

theorem txForm_wf (b : Byte) : (txForm b).wf = true := by
  rcases txForm_cases b with ⟨-, h⟩ | ⟨-, h⟩ | ⟨hb, h⟩ <;> rw [h]
  · rfl
  · rfl
  · exact (wf_txLit_iff b).2 hb

theorem encode_txForm (b : Byte) : encode (txForm b) = .word [b] := by
  rcases txForm_cases b with ⟨rfl, h⟩ | ⟨rfl, h⟩ | ⟨-, h⟩ <;> rw [h] <;> rfl

theorem requestForm_wf (r : Request) : (requestForm r).wf = true := by
  cases r <;> rfl

theorem encode_requestForm (r : Request) : encode (requestForm r) = .request r := by
  cases r <;> rfl

/-- The second byte of a two-byte selector is 0, 1, or has a bit above `esc` (LOG 13). -/
theorem decode_reservedBits (b : Byte) {h : Byte} (hh : 2 ≤ h.toNat) :
    Sys2Proof.decode (.word [b, h]) = .rejected .reservedBits := by
  have h0 : h ≠ 0 := by rintro rfl; exact absurd hh (by decide)
  have h1 : h ≠ 1 := by rintro rfl; exact absurd hh (by decide)
  exact (if_neg h0).trans (if_neg h1)

theorem wf_and_encode_of_decode {e : Encoded} {i : Instr} (h : Sys2Proof.decode e = .instr i) :
    i.wf = true ∧ encode i = e := by
  cases e with
  | request r =>
    cases h
    exact ⟨requestForm_wf r, encode_requestForm r⟩
  | word bytes =>
    match bytes, h with
    | [], h => cases h
    | [b], h =>
      cases h
      exact ⟨txForm_wf b, encode_txForm b⟩
    | [b, x], h =>
      by_cases h0 : x = 0
      · subst h0
        cases h
        exact ⟨rxForm_wf false b, encode_rxForm false b⟩
      · by_cases h1 : x = 1
        · subst h1
          cases h
          exact ⟨rxForm_wf true b, encode_rxForm true b⟩
        · have h2 : 2 ≤ x.toNat := by
            have hne0 : x.toNat ≠ 0 := fun hx => h0 (BitVec.eq_of_toNat_eq hx)
            have hne1 : x.toNat ≠ 1 := fun hx => h1 (BitVec.eq_of_toNat_eq hx)
            omega
          rw [decode_reservedBits b h2] at h
          cases h
    | _ :: _ :: _ :: _, h => cases h

/-! ## What is encoded decodes to itself -/

/-- The excluded operand values are those of the neighbouring forms, so the chain of tests ends at `i`. -/
theorem decode_encode {i : Instr} (h : i.wf = true) : Sys2Proof.decode (encode i) = .instr i := by
  cases i with
  | rxEscV v =>
    obtain ⟨hd, he⟩ := (wf_rxEscV_iff v).1 h
    calc Sys2Proof.decode (.word [v, 1]) = .instr (rxForm true v) := rfl
      _ = .instr (.rxEscV v) := by rw [rxForm_true, if_neg hd, if_neg he]
  | rxData v =>
    obtain ⟨he, hd⟩ := (wf_rxData_iff v).1 h
    calc Sys2Proof.decode (.word [v, 0]) = .instr (rxForm false v) := rfl
      _ = .instr (.rxData v) := by rw [rxForm_false, if_neg he, if_neg hd]
  | txLit v =>
    obtain ⟨hd, he⟩ := (wf_txLit_iff v).1 h
    calc Sys2Proof.decode (.word [v]) = .instr (txForm v) := rfl
      _ = .instr (.txLit v) := congrArg Decoded.instr ((if_neg hd).trans (if_neg he))
  | rxEscD | rxEscE | rxEsc | rxDelim | txSubD | txSubE => rfl
  | encap | feed | step | append | emit | csum | sealPkt | validate | ingest | decode | reset
  | config => rfl

/-! ## A word's bits as the table numbers them -/

/-- The words that encode an operation have one byte (format TXB) or two (format RXB). -/
theorem encode_word_length {i : Instr} {bytes : List Byte} (h : encode i = .word bytes) :
    (∃ b, bytes = [b]) ∨ ∃ b x, bytes = [b, x] := by
  cases i with
  | txSubD | txSubE | txLit =>
    cases h
    exact .inl ⟨_, rfl⟩
  | rxEscD | rxEscE | rxEscV | rxEsc | rxDelim | rxData =>
    cases h
    exact .inr ⟨_, _, rfl⟩
  | encap | feed | step | append | emit | csum | sealPkt | validate | ingest | decode | reset
  | config => cases h

theorem tableWordBytes_one (b : Byte) :
    tableWordBytes (8 * [b].length) (wordNumber [b]) = some [b] := by
  have hb := b.isLt
  have hnum : wordNumber [b] = b.toNat := rfl
  rw [hnum]
  simp [tableWordBytes, hb]

theorem tableWordBytes_two (b x : Byte) :
    tableWordBytes (8 * [b, x].length) (wordNumber [b, x]) = some [b, x] := by
  have hb := b.isLt
  have hx := x.isLt
  have hnum : wordNumber [b, x] = b.toNat + 256 * x.toNat := rfl
  have hlo : BitVec.ofNat 8 (b.toNat + 256 * x.toNat) = b :=
    BitVec.eq_of_toNat_eq (by rw [BitVec.toNat_ofNat]; omega)
  have hhi : BitVec.ofNat 8 ((b.toNat + 256 * x.toNat) / 256) = x :=
    BitVec.eq_of_toNat_eq (by rw [BitVec.toNat_ofNat]; omega)
  have hlt : b.toNat + 256 * x.toNat < 65536 := by omega
  rw [hnum]
  simp [tableWordBytes, hlt, hlo, hhi]

theorem decodeTableWord_encode {i : Instr} {bytes : List Byte} (hwf : i.wf = true)
    (h : encode i = .word bytes) :
    decodeTableWord (8 * bytes.length) (wordNumber bytes) = some i := by
  have hbytes : tableWordBytes (8 * bytes.length) (wordNumber bytes) = some bytes := by
    rcases encode_word_length h with ⟨b, rfl⟩ | ⟨b, x, rfl⟩
    · exact tableWordBytes_one b
    · exact tableWordBytes_two b x
  have hdecode : Sys2Proof.decode (.word bytes) = .instr i := h ▸ decode_encode hwf
  simp only [decodeTableWord, hbytes, hdecode]

/-! ## What a transfer selects -/

/-- Every encoding is the selector of some transfer: a byte form by its port, the others as requests. -/
theorem exists_selector_encode (i : Instr) : ∃ esc st, selector esc st = encode i := by
  cases i with
  | rxEscD | rxEscE | rxEscV => exact ⟨true, .rxIn _, rfl⟩
  | rxEsc | rxDelim | rxData => exact ⟨false, .rxIn _, rfl⟩
  | txSubD | txSubE | txLit => exact ⟨false, .txByte _, rfl⟩
  | encap | feed | step | append | emit | csum | sealPkt | validate | ingest | decode | reset
  | config => exact ⟨false, .request _, rfl⟩

theorem decode_selector (esc : Bool) (st : Stimulus) :
    ∃ i, Sys2Proof.decode (selector esc st) = .instr i := by
  cases st with
  | rxIn b => exact ⟨rxForm esc b, decode_selector_rxIn esc b⟩
  | txByte b => exact ⟨txForm b, rfl⟩
  | request r => exact ⟨requestForm r, rfl⟩

theorem unsub_of_ne {b : Byte} (hd : b ≠ 0xDC) (he : b ≠ 0xDD) : unsub b = b :=
  (if_neg hd).trans (if_neg he)

/-- The form of a received byte, run where `esc` selected it, is STEP of that byte (R81). -/
theorem exec_rxForm (b : Byte) (s : State) : exec (rxForm s.esc b) s = exec (.step b) s := by
  change exec (rxForm s.esc b) s = stepByte .validated b s
  rcases rxForm_cases s.esc b with ⟨he, rfl, h⟩ | ⟨he, rfl, h⟩ | ⟨he, hb, h⟩ | ⟨he, rfl, h⟩ |
    ⟨he, rfl, h⟩ | ⟨he, hb, h⟩ <;> rw [h]
  · rw [stepByte_escaped .validated _ he]
    exact congrArg (appendByte · (s.setEsc false)) unsub_escDelim.symm
  · rw [stepByte_escaped .validated _ he]
    exact congrArg (appendByte · (s.setEsc false)) unsub_escEsc.symm
  · rw [stepByte_escaped .validated _ he]
    exact congrArg (appendByte · (s.setEsc false)) (unsub_of_ne hb.1 hb.2).symm
  · exact (stepByte_esc .validated he).symm
  · exact (stepByte_delim .validated he).symm
  · exact (stepByte_data .validated he hb.1 hb.2).symm

/-! ## The rows of the opcode table -/

/-- With `esc = 1` the selector has bit 8 set, so one of the three rows that ask for it accepts it. -/
theorem rows_accepting_escaped (b : Byte) :
    ([Instr.rxEscD, .rxEscE, .rxEscV b, .rxEsc, .rxDelim, .rxData b].filter fun i =>
      (opcodeRow i).any fun r => r.accepts (b.toNat + 256)) = [rxForm true b] := by
  revert b
  decide

theorem rows_accepting_unescaped (b : Byte) :
    ([Instr.rxEscD, .rxEscE, .rxEscV b, .rxEsc, .rxDelim, .rxData b].filter fun i =>
      (opcodeRow i).any fun r => r.accepts b.toNat) = [rxForm false b] := by
  revert b
  decide

end Sys2Proof.Machine
end

section
/-! SUPPORT. The statements about the encodings and about how a step accepts a transfer (R35, R53, R54, R57,
R63). -/

namespace Sys2Proof.Proofs

open Sys2Proof.Machine Sys2Proof.Reference

/-- Settles O10: the decoder undoes the encoder on well-formed operations, the table's numbering of a word gives
its bytes back, and a step runs whatever its oldest transfer decodes to. -/
theorem encodedOperationDecodesToItself : Obligations.EncodedOperationDecodesToItself := by
  refine ⟨fun i hwf => decode_encode hwf, fun i bytes hwf h => decodeTableWord_encode hwf h,
    fun i hwf => ⟨exists_selector_encode i, fun esc st s hsel => ?_⟩⟩
  exact step_accept (s := { s with esc := esc, input := st :: s.input }) rfl
    (hsel ▸ decode_encode hwf)

/-- Settles O11, by the shape of the word, or by the request. -/
theorem acceptedWordIsAnEncoding : Obligations.AcceptedWordIsAnEncoding :=
  fun _ _ h => wf_and_encode_of_decode h

/-- Settles O9: every selector decodes, and what is decoded is well formed. -/
theorem everyTransferIsAnOperation : Obligations.EveryTransferIsAnOperation := by
  intro esc st
  obtain ⟨i, hi⟩ := decode_selector esc st
  exact ⟨i, hi, (wf_and_encode_of_decode hi).1⟩

/-- Settles O8: the selector of a packet byte is the byte alone, and `txForm` is R54's chain of tests. -/
theorem transmitBytePicksTheForm : Obligations.TransmitBytePicksTheForm :=
  fun _ _ => rfl

/-- Settles O12: each word is evaluated by the decoder. -/
theorem tableWordsDecode : Obligations.TableWordsDecode := by
  unfold Obligations.TableWordsDecode
  decide

/-- Settles O13: a second byte of 2 or more is neither value of `esc`. -/
theorem selectorBitsAboveEscAreRejected : Obligations.SelectorBitsAboveEscAreRejected :=
  fun b _ hh => decode_reservedBits b hh

/-- Settles O14, for each value of `esc` by running the six rows on every byte. -/
theorem receiveRowsCoverEachSelectorOnce : Obligations.ReceiveRowsCoverEachSelectorOnce := by
  intro esc b
  cases esc with
  | true => exact rows_accepting_escaped b
  | false => exact rows_accepting_unescaped b

/-- Settles O5: the two clauses are the step on a waiting transfer and the idle step. -/
theorem stepRunsTheDecodedInstruction : Obligations.StepRunsTheDecodedInstruction :=
  ⟨fun _ _ _ _ hinput hdecode => step_accept hinput hdecode, fun _ hinput => step_idle hinput⟩

/-- Settles O6: the form that `esc` and the byte select is the line of STEP for that byte. -/
theorem receivedByteRunsOneStep : Obligations.ReceivedByteRunsOneStep := by
  intro s b rest hinput
  rw [step_accept hinput (decode_selector_rxIn s.esc b)]
  exact exec_rxForm b { s with input := rest }

end Sys2Proof.Proofs
end

section
/-! SUPPORT. Which operations go on from every state with `cur ≤ CAP`, and which calls are refused (R91, R100,
R123; LOG 6). -/

namespace Sys2Proof.Machine

open Sys2Proof.Reference

variable {s : State}

/-- A transmit form appends the stream bytes of its packet byte to `TX_OUT`. -/
theorem exec_txForm (b : Byte) (s : State) : exec (txForm b) s = .next (s.putTx (wireByte b)) := by
  rw [← escapeByte_eq_wireByte]
  rcases txForm_cases b with ⟨rfl, h⟩ | ⟨rfl, h⟩ | ⟨⟨hd, he⟩, h⟩ <;> rw [h]
  · rfl
  · exact congrArg (fun out => Host.Outcome.next (s.putTx out)) escapeByte_esc.symm
  · rw [escapeByte_lit hd he]
    rfl

/-- DECODE is RESET, FEED with validation bypassed, and the answer of the packets among the new events (R121). -/
theorem exec_decode_of_feedBytes {t : State} {bytes : List Byte} {evs : List Event}
    (hfeed : feedBytes .raw bytes s.restart = .next t) (hrxEv : t.rxEv = s.rxEv ++ evs) :
    exec (.decode bytes) s = .next (t.answer (.packets (rawPackets evs))) := by
  have hnew : t.rxEv.drop s.rxEv.length = evs := by rw [hrxEv, List.drop_left]
  change execDecode bytes s = _
  rw [execDecode, hfeed, thenDo_next, hnew]

theorem execDecode_completes (bytes : List Byte) (s : State) :
    ∃ t, exec (.decode bytes) s = .next t := by
  obtain ⟨t, hfeed⟩ := feedBytes_completes (s := s.restart) .raw bytes (Nat.zero_le _)
  obtain ⟨evs, hrxEv, -⟩ := feedBytes_emits hfeed
  exact ⟨_, exec_decode_of_feedBytes hfeed hrxEv⟩

theorem exec_config_of_pos {cap : Nat} (hcap : 1 ≤ cap) (lenBase : Nat) (s : State) :
    exec (.config cap lenBase) s = .next { s with cfgCap := cap, cfgLenBase := lenBase } :=
  if_neg (Nat.ne_of_gt hcap)

theorem exec_config_zero (lenBase : Nat) (s : State) :
    exec (.config 0 lenBase) s = .refused .capZero := rfl

theorem exec_emit_of_due (hovf : s.ovf = false) (hpos : 0 < s.cur) (hcap : s.cur ≤ s.cap) :
    exec .emit s = .next (s.handOn .validated) :=
  (if_pos ⟨hovf, hpos⟩).trans (emitPacket_next .validated hcap)

theorem exec_emit_refused (h : s.ovf = true ∨ s.cur = 0) : exec .emit s = .refused .emitNotDue := by
  refine if_neg fun ⟨hovf, hpos⟩ => ?_
  rcases h with h | h
  · exact absurd (hovf.symm.trans h) Bool.false_ne_true
  · exact absurd h (Nat.ne_of_gt hpos)

/-- What a request's operation answers from a state with `cur ≤ CAP`: a next state, or one of three refusals. -/
theorem exec_requestForm_stop (r : Request) (hcap : s.cur ≤ s.cap) :
    (∃ t, exec (requestForm r) s = .next t) ∨
    (∃ buf len, r = .csumCall buf len ∧ buf.length < len ∧
      exec (requestForm r) s = .refused .csumLengthBeyondBuffer) ∨
    (∃ lenBase, r = .cfg 0 lenBase ∧ exec (requestForm r) s = .refused .capZero) ∨
    (r = .emitCall ∧ (s.ovf = true ∨ s.cur = 0) ∧ exec (requestForm r) s = .refused .emitNotDue) := by
  cases r with
  | csumCall buf len =>
    rcases Nat.lt_or_ge buf.length len with hlt | hle
    · exact .inr (.inl ⟨buf, len, rfl, hlt, exec_csum_of_lt hlt s⟩)
    · exact .inl ⟨_, exec_csum_of_le hle s⟩
  | cfg cap lenBase =>
    rcases Nat.eq_zero_or_pos cap with rfl | hpos
    · exact .inr (.inr (.inl ⟨lenBase, rfl, exec_config_zero lenBase s⟩))
    · exact .inl ⟨_, exec_config_of_pos hpos lenBase s⟩
  | emitCall =>
    by_cases hdue : s.ovf = true ∨ s.cur = 0
    · exact .inr (.inr (.inr ⟨rfl, hdue, exec_emit_refused hdue⟩))
    · obtain ⟨hovf, hcur⟩ := not_or.1 hdue
      exact .inl ⟨_, exec_emit_of_due (Bool.eq_false_of_not_eq_true hovf)
        (Nat.pos_of_ne_zero hcur) hcap⟩
  | rxChunk c | ingestCall c => exact .inl (feedBytes_completes .validated c hcap)
  | rxByte b => exact .inl (stepByte_completes .validated b hcap)
  | appendCall v => exact .inl (appendByte_completes hcap)
  | decodeCall bytes => exact .inl (execDecode_completes bytes s)
  | txIn | sealCall | validateCall | rst => exact .inl ⟨_, rfl⟩

end Sys2Proof.Machine
end

section
/-! SUPPORT. The statement about where a step stops (R91, R100, R123; LOG 6). -/

namespace Sys2Proof.Proofs

open Sys2Proof.Machine

/-- Settles O4: the received and the transmitted bytes never stop a step, and the requests stop it at three calls
only; of the invariant only `cur ≤ CAP` is needed. -/
theorem stepStopsOnlyAtRefusedCalls : Obligations.StepStopsOnlyAtRefusedCalls := by
  intro s hs
  have hcap := hs.cursor.1
  cases hinput : s.input with
  | nil => exact .inl ⟨s, step_idle hinput⟩
  | cons st rest =>
    cases st with
    | rxIn b =>
      rw [receivedByteRunsOneStep s b rest hinput]
      exact .inl (stepByte_completes .validated b hcap)
    | txByte b =>
      rw [step_accept (i := txForm b) hinput rfl, exec_txForm]
      exact .inl ⟨_, rfl⟩
    | request r =>
      rw [step_accept (i := requestForm r) hinput rfl]
      rcases exec_requestForm_stop (s := { s with input := rest }) r hcap with
        hnext | ⟨buf, len, rfl, hlen, h⟩ | ⟨lenBase, rfl, h⟩ | ⟨rfl, hdue, h⟩
      · exact .inl hnext
      · exact .inr (.inl ⟨buf, len, rest, rfl, hlen, h⟩)
      · exact .inr (.inr (.inl ⟨lenBase, rest, rfl, h⟩))
      · exact .inr (.inr (.inr ⟨rest, rfl, hdue, h⟩))

end Sys2Proof.Proofs
end

section
/-! SUPPORT. The shared operations of the deframer against the reference's tables of what APPEND, an unescaped
delimiter and STEP lead to, for both bindings of `deliver P` (R81, R86, R88). -/

namespace Sys2Proof.Machine

open Sys2Proof.Reference

variable {s t : State} {v b : Byte}

theorem storeNext_accRead (h : Memory.wf s.acc) (v : Byte) (i : Nat) :
    (s.storeNext v).accRead i = if i = s.cur then v else s.accRead i :=
  Memory.read_write h s.cur v i

/-- The three cases exclude each other, so each of the table's lines is one of them or has a false premise. -/
theorem afterAppend_of_appendByte (hwf : Memory.wf s.acc) (h : appendByte v s = .next t) :
    AfterAppend v s t := by
  rcases appendByte_cases h with ⟨hovf, rfl⟩ | ⟨hovf, hfull, rfl⟩ | ⟨hovf, hroom, rfl⟩
  · exact ⟨fun _ => rfl, fun hf => by simp [hovf] at hf, fun hf => by simp [hovf] at hf⟩
  · exact ⟨fun ht => by simp [hovf] at ht, fun _ _ => rfl, fun _ hlt => absurd hfull hlt.ne⟩
  · refine ⟨fun ht => by simp [hovf] at ht, fun _ hfull => absurd hfull hroom.ne,
      fun _ _ => ⟨rfl, ?_, fun i hi => ?_⟩⟩
    · rw [storeNext_accRead hwf, if_pos rfl]
    · rw [storeNext_accRead hwf, if_neg hi]

theorem appendByte_afterAppend (hwf : Memory.wf s.acc) (hcap : s.cur ≤ s.cap) :
    ∃ t, appendByte v s = .next t ∧ AfterAppend v s t := by
  obtain ⟨t, h⟩ := appendByte_completes hcap
  exact ⟨t, h, afterAppend_of_appendByte hwf h⟩

theorem deliveryEvent_validated_eq (lenBase : Nat) :
    deliveryEvent .validated lenBase = handedOn lenBase :=
  funext (deliveryEvent_validated lenBase)

theorem afterDelimiter_of_delimiter {d : Delivery} (h : delimiter d s = .next t) :
    AfterDelimiter (deliveryEvent d s.lenBase) s t := by
  rcases delimiter_cases h with ⟨hovf, rfl⟩ | ⟨hovf, hzero, rfl⟩ | ⟨hovf, hpos, -, rfl⟩
  · exact ⟨fun _ => rfl, fun hf => by simp [hovf] at hf, fun hf => by simp [hovf] at hf⟩
  · exact ⟨fun ht => by simp [hovf] at ht, fun _ _ => rfl, fun _ hpos => absurd hzero hpos.ne'⟩
  · exact ⟨fun ht => by simp [hovf] at ht, fun _ hzero => absurd hzero hpos.ne', fun _ _ => rfl⟩

theorem delimiter_afterDelimiter (d : Delivery) (hcap : s.cur ≤ s.cap) :
    ∃ t, delimiter d s = .next t ∧ AfterDelimiter (deliveryEvent d s.lenBase) s t := by
  obtain ⟨t, h⟩ := delimiter_completes d hcap
  exact ⟨t, h, afterDelimiter_of_delimiter h⟩

/-- The four readings of a byte exclude each other, and each runs the operation that its line names. -/
theorem afterStep_of_stepByte {d : Delivery} (hwf : Memory.wf s.acc) (h : stepByte d b s = .next t) :
    AfterStep (deliveryEvent d s.lenBase) b s t := by
  rcases stepByte_forms d b s with ⟨he, hf⟩ | ⟨he, rfl, hf⟩ | ⟨he, rfl, hf⟩ | ⟨he, hb, hb', hf⟩ <;>
    rw [hf] at h
  · exact ⟨fun _ => afterAppend_of_appendByte (s := s.setEsc false) hwf h, fun hf => by simp [he] at hf,
      fun hf => by simp [he] at hf, fun hf => by simp [he] at hf⟩
  · cases h
    exact ⟨fun ht => by simp [he] at ht, fun _ _ => rfl, fun _ hne => absurd hne (by decide),
      fun _ hne => absurd rfl hne⟩
  · exact ⟨fun ht => by simp [he] at ht, fun _ hne => absurd hne (by decide),
      fun _ _ => afterDelimiter_of_delimiter h, fun _ _ hne => absurd rfl hne⟩
  · exact ⟨fun ht => by simp [he] at ht, fun _ heq => absurd heq hb, fun _ heq => absurd heq hb',
      fun _ _ _ => afterAppend_of_appendByte hwf h⟩

theorem stepByte_afterStep (d : Delivery) (b : Byte) (hwf : Memory.wf s.acc) (hcap : s.cur ≤ s.cap) :
    ∃ t, stepByte d b s = .next t ∧ AfterStep (deliveryEvent d s.lenBase) b s t ∧
      (t.rxEv = s.rxEv ∨ ∃ e, t.rxEv = s.rxEv ++ [e]) := by
  obtain ⟨t, h⟩ := stepByte_completes d b hcap
  exact ⟨t, h, afterStep_of_stepByte hwf h,
    (stepByte_emits h).imp_right fun ⟨e, he, _⟩ => ⟨e, he⟩⟩

/-- RESET writes no cell and drops only those that the sampled CAP does not have. -/
theorem restart_accRead {i : Nat} (s : State) (hi : i < s.cfgCap) :
    s.restart.accRead i = s.accRead i :=
  Memory.read_below s.acc hi

end Sys2Proof.Machine
end

section
/-! SUPPORT. The statements about the byte forms, the sub-steps, STEP, the transmit forms and RESET (R71 to R73,
R81 to R91, R122). -/

namespace Sys2Proof.Proofs

open Sys2Proof.Machine Sys2Proof.Reference

/-- Settles O15: each form is APPEND on the state with `esc` clear. -/
theorem escapedFormsClearEscAndAppend : Obligations.EscapedFormsClearEscAndAppend := by
  refine ⟨selects_iff.2 rfl, selects_iff.2 rfl, fun v hd he => selects_iff.2 ?_, fun s hwf hcap => ?_⟩
  · rw [rxForm_true, if_neg hd, if_neg he]
  · have happend (v : Byte) := appendByte_afterAppend (s := s.setEsc false) (v := v) hwf hcap
    exact ⟨happend 0xC0, happend 0xDB, happend⟩

/-- Settles O16: RX.DATA and APPEND are the same operation. -/
theorem dataFormAndAppendStoreTheByte : Obligations.DataFormAndAppendStoreTheByte := by
  refine ⟨fun v he hd => selects_iff.2 ?_, fun s v hwf hcap => ?_⟩
  · rw [rxForm_false, if_neg he, if_neg hd]
  · have happend := appendByte_afterAppend (v := v) hwf hcap
    exact ⟨happend, happend⟩

/-- Settles O17: the form writes `esc` and reads nothing. -/
theorem escFormSetsTheFlagOnly : Obligations.EscFormSetsTheFlagOnly :=
  ⟨selects_iff.2 rfl, fun _ => rfl⟩

/-- Settles O18: the three cases of RX.DELIM are the three lines of the table, for both bindings. -/
theorem delimiterEndsThePacket : Obligations.DelimiterEndsThePacket := by
  refine ⟨selects_iff.2 rfl, fun s hcap => ⟨?_, delimiter_afterDelimiter .raw hcap⟩⟩
  rw [← deliveryEvent_validated_eq]
  exact delimiter_afterDelimiter .validated hcap

/-- Settles O19: the copy handed on is `acc[0..cur)`. -/
theorem emitHandsOnACopy : Obligations.EmitHandsOnACopy := by
  intro s hovf hpos hcap
  rw [← deliveryEvent_validated_eq]
  exact ⟨exec_emit_of_due hovf hpos hcap, emitPacket_next .raw hcap⟩

/-- Settles O20: EMIT's guard fails with either condition. -/
theorem emitElsewhereIsRefused : Obligations.EmitElsewhereIsRefused :=
  fun _ h => exec_emit_refused h

/-- Settles O21: all five operations are APPEND, three of them with `esc` cleared first. -/
theorem overflowEntryEmitsOneError : Obligations.OverflowEntryEmitsOneError := by
  intro s hovf hfull
  have happend (v : Byte) : appendByte v s = .next s.overflow := appendByte_full hovf hfull
  have hescaped (v : Byte) : appendUnescaped v s = .next (s.setEsc false).overflow :=
    appendByte_full (s := s.setEsc false) hovf hfull
  exact ⟨happend, happend, hescaped _, hescaped _, hescaped⟩

/-- Settles O23: STEP goes on with `cur ≤ CAP`, by one of the four readings of its byte. -/
theorem stepFollowsTheTransitionTable : Obligations.StepFollowsTheTransitionTable := by
  intro s b hwf hcap
  refine ⟨?_, stepByte_afterStep .raw b hwf hcap⟩
  rw [← deliveryEvent_validated_eq]
  exact stepByte_afterStep .validated b hwf hcap

/-- Settles O37: each form is one append to `TX_OUT`. -/
theorem transmitFormsEmitTheirBytes : Obligations.TransmitFormsEmitTheirBytes :=
  fun _ => ⟨rfl, rfl, fun _ => rfl⟩

/-- Settles O52: RESET writes the registers and samples `CFG`; a cell below the sampled CAP stays in the
list. -/
theorem resetClearsAndSamples : Obligations.ResetClearsAndSamples :=
  fun s _ => ⟨s.restart, rfl, rfl, fun _ hi => restart_accRead s hi⟩

end Sys2Proof.Proofs
end

section
/-! SUPPORT. Runs of stream bytes: the un-escaped bytes they leave held, the events they can cause, and the runs
that a discarding deframer drops (R90, R94). -/

namespace Sys2Proof.Machine

open Sys2Proof.Reference

variable {s t u : State} {d : Delivery} {v b : Byte}

/-! ## The bytes held -/

/-- `q` is what is held in `s`, unless a packet is being discarded. -/
def Holds (s : State) (q : List Byte) : Prop := s.ovf = false → contents s = q

theorem contents_of_cur_zero (h : s.cur = 0) : contents s = [] := by
  rw [contents, h]
  rfl

theorem holds_nil_of_cur_zero (h : s.cur = 0) : Holds s [] :=
  fun _ => contents_of_cur_zero h

/-- A byte that is dropped leaves `ovf` set, so nothing is said; a byte that is stored comes last. -/
theorem Holds.appendByte {q : List Byte} (hq : Holds s q) (hwf : Memory.wf s.acc)
    (h : appendByte v s = .next t) : Holds t (q ++ [v]) := by
  intro ht
  rcases appendByte_cases h with ⟨hovf, rfl⟩ | ⟨-, -, rfl⟩ | ⟨hovf, -, rfl⟩
  · exact absurd (ht.symm.trans hovf) Bool.false_ne_true
  · exact absurd ht (by simp)
  · rw [contents_storeNext hwf, hq hovf]

/-- Whatever RX.DELIM found, it leaves an empty accumulator and no discard. -/
theorem delimiter_resynchronises (h : delimiter d s = .next t) : t.cur = 0 ∧ t.ovf = false := by
  rcases delimiter_cases h with ⟨-, rfl⟩ | ⟨hovf, hzero, rfl⟩ | ⟨hovf, -, -, rfl⟩
  · exact ⟨rfl, rfl⟩
  · exact ⟨hzero, hovf⟩
  · exact ⟨rfl, hovf⟩

theorem pending_delim (q c : List Byte) :
    pending false q (Config.delim :: c) = pending false [] c := by
  rw [pending, if_neg (by decide)]
  exact if_pos rfl

theorem pending_data {q c : List Byte} (he : b ≠ Config.esc) (hd : b ≠ Config.delim) :
    pending false q (b :: c) = pending false (q ++ [b]) c :=
  (if_neg he).trans (if_neg hd)

/-- A run of bytes leads `pending` to the same list, byte by byte (R94 item 3). -/
theorem feedBytes_holds {c q : List Byte} (hwf : Memory.wf s.acc) (hq : Holds s q)
    (h : feedBytes d c s = .next t) : Holds t (pending s.esc q c) := by
  induction c generalizing s q with
  | nil =>
    cases h
    rw [pending]
    exact hq
  | cons b c ih =>
    obtain ⟨u, hstep, hrest⟩ := thenDo_eq_next h
    have hu : Memory.wf u.acc := (wf_keptByDeframer d).stepByte hwf hstep
    have hesc := stepByte_esc_after hstep
    rcases stepByte_forms d b s with ⟨he, hf⟩ | ⟨he, rfl, hf⟩ | ⟨he, rfl, hf⟩ | ⟨he, hb, hb', hf⟩ <;>
      rw [hf] at hstep <;> rw [he] at hesc ⊢
    · have hheld : Holds u (q ++ [unescaped b]) :=
        Holds.appendByte (s := s.setEsc false) hq hwf hstep
      rw [pending, ← show u.esc = false from hesc]
      exact ih hu hheld hrest
    · cases hstep
      exact ih hu (s := s.setEsc true) hq hrest
    · rw [pending_delim, ← show u.esc = false from hesc]
      exact ih hu (holds_nil_of_cur_zero (delimiter_resynchronises hstep).1) hrest
    · rw [pending_data hb hb', ← (appendByte_keeps_esc hstep).trans he]
      exact ih hu (hq.appendByte hwf hstep) hrest

/-! ## The discard -/

theorem State.setEsc_eq_self {e : Bool} (h : s.esc = e) : s.setEsc e = s := by
  rw [← h]
  rfl

/-- While a packet is discarded a byte that is no unescaped delimiter changes `esc` alone. -/
theorem stepByte_discard (d : Delivery) (hovf : s.ovf = true) (hb : ¬(s.esc = false ∧ b = 0xC0)) :
    stepByte d b s = .next (s.setEsc (!s.esc && b == 0xDB)) := by
  rcases stepByte_forms d b s with ⟨he, hf⟩ | ⟨he, rfl, hf⟩ | ⟨he, rfl, -⟩ | ⟨he, hesc, -, hf⟩
  · rw [hf, appendByte_discard (s := s.setEsc false) hovf, he]
    rfl
  · rw [hf, he]
    rfl
  · exact absurd ⟨he, rfl⟩ hb
  · have hne : (b == 0xDB) = false := beq_false_of_ne hesc
    rw [hf, appendByte_discard hovf, hne, Bool.and_false, State.setEsc_eq_self he]

theorem delimiters_cons (e : Bool) (b : Byte) (c : List Byte) :
    delimiters e (b :: c) =
      (if e = false ∧ b = 0xC0 then 1 else 0) + delimiters (!e && b == 0xDB) c := by
  rw [delimiters]

theorem delimiters_cons_eq_zero {e : Bool} {c : List Byte} :
    delimiters e (b :: c) = 0 ↔
      ¬(e = false ∧ b = 0xC0) ∧ delimiters (!e && b == 0xDB) c = 0 := by
  rw [delimiters_cons, Nat.add_eq_zero_iff, ite_eq_right_iff]
  exact and_congr_left'
    ⟨fun h hdelim => absurd (h hdelim) Nat.one_ne_zero, fun h hdelim => absurd hdelim h⟩

theorem feedBytes_discard (d : Delivery) {c : List Byte} (hovf : s.ovf = true)
    (hc : delimiters s.esc c = 0) : feedBytes d c s = .next (s.setEsc (escAfter s.esc c)) := by
  induction c generalizing s with
  | nil => rfl
  | cons b c ih =>
    obtain ⟨hb, hrest⟩ := delimiters_cons_eq_zero.1 hc
    rw [feedBytes_cons, stepByte_discard d hovf hb, thenDo_next]
    exact ih (s := s.setEsc (!s.esc && b == 0xDB)) hovf hrest

/-- The next unescaped delimiter ends the discard, with no event. -/
theorem feedBytes_discard_delim (d : Delivery) {c : List Byte} (hovf : s.ovf = true)
    (hc : delimiters s.esc c = 0) (hesc : escAfter s.esc c = false) :
    feedBytes d (c ++ [Config.delim]) s = .next (s.setEsc false).resync := by
  rw [feedBytes_append, feedBytes_discard d hovf hc, hesc, thenDo_next, feedBytes_cons,
    stepByte_delim d (s := s.setEsc false) rfl, delimiter_discard d (s := s.setEsc false) hovf]
  rfl

/-! ## The escape byte before a packet -/

/-- Between packets the leading delimiter of an encapsulation does nothing. -/
theorem feedBytes_wire_body (d : Delivery) (p : List Byte) (hclean : s.Clean) :
    feedBytes d (wire p) s = feedBytes d (p.flatMap escapeByte ++ [Config.delim]) s := by
  obtain ⟨hcur, hesc, hovf⟩ := hclean
  rw [← encapBytes_eq_wire, encapBytes, feedBytes_cons, stepByte_delim d hesc,
    delimiter_idle d hovf hcur, thenDo_next]

/-- An escape byte before the leading delimiter makes it the tolerated pair for a data byte 0xC0 (R84). -/
theorem feedBytes_danglingEscape (d : Delivery) {p : List Byte} (hclean : s.Clean) :
    feedBytes d (Config.esc :: wire p) s = feedBytes d (wire (Config.delim :: p)) s := by
  have hesc := hclean.2.1
  have hpair : feedBytes d [Config.esc, Config.delim] s = feedBytes d (escapeByte Config.delim) s := by
    rw [feedBytes_escapePair d _ hesc, feedBytes_escapeByte d _ hesc]
    rfl
  have hwire : Config.esc :: wire p =
      [Config.esc, Config.delim] ++ (p.flatMap escapeByte ++ [Config.delim]) := by
    rw [← encapBytes_eq_wire]
    rfl
  rw [feedBytes_wire_body d _ hclean, hwire, feedBytes_append, hpair, ← feedBytes_append,
    List.flatMap_cons, List.append_assoc]

/-! ## The events of a run -/

/-- The events of a run from `s` to `t` besides `ERR(1)` are at most `n`, and with `n = 0` the run emits nothing
or one `ERR(1)`, the latter only where it starts the discard. -/
def EmitsAtMost (n : Nat) (s t : State) : Prop :=
  ∃ evs, t.rxEv = s.rxEv ++ evs ∧ (evs.filter fun e => e ≠ .err .framingOverflow).length ≤ n ∧
    (n = 0 → (evs = [] ∧ t.ovf = s.ovf) ∨
      (evs = [.err .framingOverflow] ∧ s.ovf = false ∧ t.ovf = true))

theorem EmitsAtMost.silent {n : Nat} (hrxEv : t.rxEv = s.rxEv) (hovf : n = 0 → t.ovf = s.ovf) :
    EmitsAtMost n s t :=
  ⟨[], by rw [hrxEv, List.append_nil], Nat.zero_le n, fun hn => .inl ⟨rfl, hovf hn⟩⟩

/-- After an `ERR(1)` without a delimiter the discard lasts, so a second run without one adds no event. -/
theorem EmitsAtMost.trans {m n : Nat} (hsu : EmitsAtMost m s u) (hut : EmitsAtMost n u t) :
    EmitsAtMost (m + n) s t := by
  obtain ⟨evs, hu, hm, hzero⟩ := hsu
  obtain ⟨evs', ht, hn, hzero'⟩ := hut
  refine ⟨evs ++ evs', by rw [ht, hu, List.append_assoc], ?_, fun hmn => ?_⟩
  · rw [List.filter_append, List.length_append]
    exact Nat.add_le_add hm hn
  · obtain ⟨hm0, hn0⟩ := Nat.add_eq_zero_iff.1 hmn
    rcases hzero hm0 with ⟨rfl, hovf⟩ | ⟨rfl, hclear, hset⟩
    · rw [← hovf, List.nil_append]
      exact hzero' hn0
    · rcases hzero' hn0 with ⟨rfl, hovf⟩ | ⟨-, hclear', -⟩
      · exact .inr ⟨rfl, hclear, hovf.trans hset⟩
      · exact absurd (hclear'.symm.trans hset) Bool.false_ne_true

theorem appendByte_emitsAtMost (h : appendByte v s = .next t) : EmitsAtMost 0 s t := by
  rcases appendByte_cases h with ⟨-, rfl⟩ | ⟨hovf, -, rfl⟩ | ⟨-, -, rfl⟩
  · exact .silent rfl fun _ => rfl
  · exact ⟨[.err .framingOverflow], rfl, by simp, fun _ => .inr ⟨rfl, hovf, rfl⟩⟩
  · exact .silent rfl fun _ => rfl

theorem delimiter_emitsAtMost (h : delimiter d s = .next t) : EmitsAtMost 1 s t := by
  rcases delimiter_cases h with ⟨-, rfl⟩ | ⟨-, -, rfl⟩ | ⟨-, -, -, rfl⟩
  · exact .silent rfl fun h => absurd h Nat.one_ne_zero
  · exact .silent rfl fun _ => rfl
  · exact ⟨_, s.handOn_rxEv d, List.length_filter_le _ _, fun h => absurd h Nat.one_ne_zero⟩

/-- Only an unescaped delimiter is counted, and only it can cause an event other than `ERR(1)`. -/
theorem stepByte_emitsAtMost (h : stepByte d b s = .next t) :
    EmitsAtMost (if s.esc = false ∧ b = 0xC0 then 1 else 0) s t := by
  rcases stepByte_forms d b s with ⟨he, hf⟩ | ⟨-, rfl, hf⟩ | ⟨he, rfl, hf⟩ | ⟨-, -, hb, hf⟩ <;>
    rw [hf] at h
  · rw [if_neg (by simp [he])]
    exact appendByte_emitsAtMost (s := s.setEsc false) h
  · cases h
    exact .silent rfl fun _ => rfl
  · rw [if_pos ⟨he, rfl⟩]
    exact delimiter_emitsAtMost h
  · rw [if_neg fun hdelim => hb hdelim.2]
    exact appendByte_emitsAtMost h

theorem feedBytes_emitsAtMost {c : List Byte} (h : feedBytes d c s = .next t) :
    EmitsAtMost (delimiters s.esc c) s t := by
  induction c generalizing s with
  | nil =>
    cases h
    exact .silent rfl fun _ => rfl
  | cons b c ih =>
    obtain ⟨u, hstep, hrest⟩ := thenDo_eq_next h
    rw [delimiters_cons, ← stepByte_esc_after hstep]
    exact (stepByte_emitsAtMost hstep).trans (ih hrest)

end Sys2Proof.Machine
end

section
/-! SUPPORT. The framer and the deframer write apart: an append to `TX_OUT` before a deframer's operation is one
after it, whatever the operation answers (R15, R38 item 5). -/

namespace Sys2Proof.Machine

variable {s : State}

/-- `k` does not see an append to `TX_OUT` and keeps it. -/
def CommutesWithTx (k : State → Host.Outcome State Fault Refusal) : Prop :=
  ∀ out s, k (s.putTx out) = thenDo (k s) fun t => .next (t.putTx out)

theorem CommutesWithTx.thenDo {k l : State → Host.Outcome State Fault Refusal}
    (hk : CommutesWithTx k) (hl : CommutesWithTx l) : CommutesWithTx fun s => thenDo (k s) l := by
  intro out s
  calc Machine.thenDo (k (s.putTx out)) l
      = Machine.thenDo (k s) fun t => l (t.putTx out) := by rw [hk, thenDo_assoc]; rfl
    _ = Machine.thenDo (k s) fun t => Machine.thenDo (l t) fun u => .next (u.putTx out) :=
        congrArg (Machine.thenDo (k s)) (funext (hl out))
    _ = _ := (thenDo_assoc ..).symm

theorem appendByte_fault {v : Byte} (hovf : s.ovf = false) (hout : s.cap < s.cur) :
    appendByte v s = .fault .accOutOfRange := by
  simp [appendByte, hovf, hout.ne', State.accStore, hout.not_gt]

theorem delimiter_fault (d : Delivery) (hovf : s.ovf = false) (hout : s.cap < s.cur) :
    delimiter d s = .fault .accOutOfRange := by
  simp [delimiter, hovf, Nat.zero_lt_of_lt hout, emitPacket, hout.not_ge]

theorem appendByte_commutesWithTx (v : Byte) : CommutesWithTx (appendByte v) := by
  intro out s
  cases hovf : s.ovf with
  | true =>
    rw [appendByte_discard hovf]
    exact appendByte_discard (s := s.putTx out) hovf
  | false =>
    rcases Nat.lt_trichotomy s.cur s.cap with hroom | hfull | hout
    · rw [appendByte_room hovf hroom]
      exact appendByte_room (s := s.putTx out) hovf hroom
    · rw [appendByte_full hovf hfull]
      exact appendByte_full (s := s.putTx out) hovf hfull
    · rw [appendByte_fault hovf hout]
      exact appendByte_fault (s := s.putTx out) hovf hout

theorem delimiter_commutesWithTx (d : Delivery) : CommutesWithTx (delimiter d) := by
  intro out s
  cases hovf : s.ovf with
  | true =>
    rw [delimiter_discard d hovf]
    exact delimiter_discard (s := s.putTx out) d hovf
  | false =>
    rcases Nat.lt_or_ge s.cap s.cur with hout | hcap
    · rw [delimiter_fault d hovf hout]
      exact delimiter_fault (s := s.putTx out) d hovf hout
    · rcases Nat.eq_zero_or_pos s.cur with hzero | hpos
      · rw [delimiter_idle d hovf hzero]
        exact delimiter_idle (s := s.putTx out) d hovf hzero
      · rw [delimiter_packet d hovf hpos hcap]
        exact delimiter_packet (s := s.putTx out) d hovf hpos hcap

theorem stepByte_commutesWithTx (d : Delivery) (b : Byte) : CommutesWithTx (stepByte d b) := by
  intro out s
  rcases stepByte_forms d b s with ⟨he, hf⟩ | ⟨he, rfl, hf⟩ | ⟨he, rfl, hf⟩ | ⟨he, hb, hb', hf⟩ <;>
    rw [hf]
  · rw [stepByte_escaped d b (s := s.putTx out) he]
    exact appendByte_commutesWithTx (unsub b) out (s.setEsc false)
  · exact stepByte_esc d (s := s.putTx out) he
  · rw [stepByte_delim d (s := s.putTx out) he]
    exact delimiter_commutesWithTx d out s
  · rw [stepByte_data d (s := s.putTx out) he hb hb']
    exact appendByte_commutesWithTx b out s

theorem feedBytes_commutesWithTx (d : Delivery) (c : List Byte) : CommutesWithTx (feedBytes d c) := by
  induction c with
  | nil => exact fun _ _ => rfl
  | cons b c ih => exact (stepByte_commutesWithTx d b).thenDo ih

end Sys2Proof.Machine
end

section
/-! SUPPORT. The statements about runs of FEED from any state: what it holds, what it emits, that it completes,
the discard, the resynchronisation, and that it runs beside the framer (R15, R80, R90, R94, R154, R155). -/

namespace Sys2Proof.Proofs

open Sys2Proof.Machine Sys2Proof.Reference

/-- Settles O28, by induction over the bytes with "unless discarding" in the hypothesis: an overflow on the way
spoils the bytes held only until the delimiter that clears `ovf`. -/
theorem accumulatorHoldsTheUnescapedBytes : Obligations.AccumulatorHoldsTheUnescapedBytes :=
  fun _ _ _ hwf h hovf => feedBytes_holds hwf (fun _ => rfl) h hovf

/-- Settles O29, by induction over the bytes: a delimiter hands on at most one packet, and an overflow starts a
discard that lasts to the next delimiter. -/
theorem eventsAreBoundedByDelimiters : Obligations.EventsAreBoundedByDelimiters := by
  intro s t bs h
  obtain ⟨evs, hrxEv, hcount, hzero⟩ := feedBytes_emitsAtMost h
  refine ⟨evs, hrxEv, hcount, fun hn => ?_⟩
  rcases hzero hn with ⟨hnil, -⟩ | ⟨herr, -, -⟩
  · exact .inl hnil
  · exact .inr herr

/-- Settles O27: both operations are one run of STEPs, each of which completes and keeps `cur ≤ CAP`. -/
theorem feedAndIngestComplete : Obligations.FeedAndIngestComplete := by
  intro s c hcap
  obtain ⟨t, hfeed⟩ := feedBytes_completes .validated c hcap
  exact ⟨t, hfeed, hfeed, (cursorBound_keptByDeframer .validated).feedBytes hcap hfeed,
    feedBytes_receiverFrame hfeed⟩

/-- Settles O22: the run is dropped byte by byte, the delimiter leaves the deframer between packets, and there an
encapsulated packet is received. -/
theorem discardLastsToTheNextDelimiter : Obligations.DiscardLastsToTheNextDelimiter := by
  refine fun s bs hovf hbs => ⟨feedBytes_discard .validated hovf hbs, fun hesc => ?_⟩
  have hend := feedBytes_discard_delim .validated hovf hbs hesc
  refine ⟨hend, fun p hwf hpos hfits => ?_⟩
  have hp : p ≠ [] := List.length_pos_iff.1 hpos
  have hpacket := feedBytes_wire_packet (s := (s.setEsc false).resync) .validated hwf ⟨rfl, rfl, rfl⟩
    hp hfits
  rw [deliveryEvent_validated] at hpacket
  have hjoin : feedBytes .validated (bs ++ [Config.delim] ++ wire p) s =
      feedBytes .validated (wire p) (s.setEsc false).resync := by
    rw [feedBytes_append, hend, thenDo_next]
  exact ⟨_, hjoin.trans hpacket, rfl⟩

/-- Settles O31: each case of RX.DELIM ends between packets, with the accumulator and LEN_BASE as they were. -/
theorem unescapedDelimiterResynchronises : Obligations.UnescapedDelimiterResynchronises := by
  intro s p hwf hcap hesc hpos hfits
  obtain ⟨t, hdelim⟩ := delimiter_completes .validated hcap
  obtain ⟨hcapEq, hlenBase⟩ := delimiter_keeps_config hdelim
  obtain ⟨hcur, hovf⟩ := delimiter_resynchronises hdelim
  have hclean : t.Clean := ⟨hcur, (delimiter_keeps_esc hdelim).trans hesc, hovf⟩
  have hpacket := feedBytes_wire_packet .validated ((wf_keptByDeframer .validated).delimiter hwf hdelim)
    hclean (List.length_pos_iff.1 hpos) (hcapEq ▸ hfits)
  rw [deliveryEvent_validated, hlenBase] at hpacket
  exact ⟨t, _, (stepByte_delim .validated hesc).trans hdelim, hclean, hpacket, hclean, rfl⟩

/-- Settles O32: the escape makes the leading delimiter a data byte, so the deframer reads the packet with that
byte in front. -/
theorem danglingEscapeTakesTheDelimiter : Obligations.DanglingEscapeTakesTheDelimiter := by
  intro s p hwf hclean hfits
  have hpacket := feedBytes_wire_packet (p := Config.delim :: p) .raw hwf hclean
    (List.cons_ne_nil _ _) hfits
  exact ⟨_, (feedBytes_danglingEscape .raw hclean).trans hpacket, rfl⟩

/-- Settles O36, by induction over the chunk: no operation of the deframer reads or writes `TX_OUT`, and ENCAP
does nothing else. -/
theorem framerAndDeframerCommute : Obligations.FramerAndDeframerCommute := by
  intro s p c
  rw [exec_encap, thenDo_next, funext (exec_encap p)]
  exact feedBytes_commutesWithTx .validated c (wire p) s

end Sys2Proof.Proofs
end

section
/-! SUPPORT. One encapsulated packet of any length between packets, and a stream of them: a packet longer than
CAP fills the accumulator, raises one `ERR(1)` and is discarded to its closing delimiter (R76, R89, R90, R120). -/

namespace Sys2Proof.Machine

open Sys2Proof.Reference

variable {s : State} {p : List Byte} {ps : List (List Byte)}

/-- The escaped bytes of a packet hold no unescaped delimiter, so all of them are dropped. -/
theorem feedBytes_flatMap_escapeByte_discard (d : Delivery) (p : List Byte) (hesc : s.esc = false)
    (hovf : s.ovf = true) : feedBytes d (p.flatMap escapeByte) s = .next s := by
  induction p with
  | nil => rfl
  | cons b p ih =>
    rw [List.flatMap_cons, feedBytes_append, feedBytes_escapeByte d b hesc,
      appendByte_discard hovf, thenDo_next, ih]

/-- The first byte that finds the accumulator full raises the overflow, and the rest is dropped. -/
theorem feedBytes_flatMap_escapeByte_full (d : Delivery) (hesc : s.esc = false) (hovf : s.ovf = false)
    (hfull : s.cur = s.cap) (hp : p ≠ []) :
    feedBytes d (p.flatMap escapeByte) s = .next s.overflow := by
  obtain ⟨b, q, rfl⟩ := List.exists_cons_of_ne_nil hp
  rw [List.flatMap_cons, feedBytes_append, feedBytes_escapeByte d b hesc, appendByte_full hovf hfull,
    thenDo_next]
  exact feedBytes_flatMap_escapeByte_discard (s := s.overflow) d q hesc rfl

/-- The delimiter after an overflowed run leaves the state between packets, `acc` and the `ERR(1)` apart. -/
theorem State.resync_overflow_storeRun {q : List Byte} (hcur : s.cur = 0) (hovf : s.ovf = false) :
    (s.storeRun q).overflow.resync = { s with
      acc := (s.storeRun q).acc, rxEv := s.rxEv ++ [.err .framingOverflow] } := by
  rw [s.storeRun_eq q]
  change ({ s with
    acc := (s.storeRun q).acc, cur := 0, ovf := false,
    rxEv := s.rxEv ++ [Event.err .framingOverflow] } : State) = _
  rw [← hcur, ← hovf]

/-- A packet too long is its first CAP bytes stored, one overflow, and a discard to the closing delimiter. -/
theorem feedBytes_wire_tooLong (d : Delivery) (hclean : s.Clean) (hlong : s.cap < p.length) :
    feedBytes d (wire p) s = .next { s with
      acc := (s.storeRun (p.take s.cap)).acc, rxEv := s.rxEv ++ [.err .framingOverflow] } := by
  have ⟨hcur, hesc, hovf⟩ := hclean
  have hlength : (p.take s.cap).length = s.cap := List.length_take_of_le hlong.le
  have hrest : p.drop s.cap ≠ [] := by
    rw [Ne, List.drop_eq_nil_iff, Nat.not_le]
    exact hlong
  have hstored := feedBytes_flatMap_escapeByte (p := p.take s.cap) d hesc hovf
    (by rw [hcur, hlength, Nat.zero_add])
  have hfull : (s.storeRun (p.take s.cap)).cur = (s.storeRun (p.take s.cap)).cap := by
    rw [State.storeRun_cur, hcur, hlength, Nat.zero_add, State.storeRun_cap]
  have hover := feedBytes_flatMap_escapeByte_full d ((s.storeRun_esc _).trans hesc)
    ((s.storeRun_ovf _).trans hovf) hfull hrest
  have hsplit : p.flatMap escapeByte =
      (p.take s.cap).flatMap escapeByte ++ (p.drop s.cap).flatMap escapeByte := by
    rw [← List.flatMap_append, List.take_append_drop]
  rw [feedBytes_wire_body d p hclean, feedBytes_append, hsplit, feedBytes_append, hstored,
    thenDo_next, hover, thenDo_next, feedBytes_cons,
    stepByte_delim d (s := (s.storeRun (p.take s.cap)).overflow) ((s.storeRun_esc _).trans hesc),
    delimiter_discard d rfl, State.resync_overflow_storeRun hcur hovf]
  rfl

/-! ## Any packet, and any stream -/

/-- The events of one encapsulated packet that arrives between packets, for packets handed on by `d`. -/
def wireEvents (d : Delivery) (cap lenBase : Nat) (p : List Byte) : List Event :=
  if p.length = 0 then []
  else if cap < p.length then [.err .framingOverflow]
  else [deliveryEvent d lenBase p]

theorem wireEvents_nil (d : Delivery) (cap lenBase : Nat) : wireEvents d cap lenBase [] = [] := rfl

theorem wireEvents_tooLong (d : Delivery) {cap : Nat} (lenBase : Nat) (hlong : cap < p.length) :
    wireEvents d cap lenBase p = [.err .framingOverflow] := by
  rw [wireEvents, if_neg (Nat.ne_of_gt (Nat.zero_lt_of_lt hlong)), if_pos hlong]

theorem wireEvents_fits (d : Delivery) {cap : Nat} (lenBase : Nat) (hp : p ≠ [])
    (hfits : p.length ≤ cap) : wireEvents d cap lenBase p = [deliveryEvent d lenBase p] := by
  rw [wireEvents, if_neg (List.length_pos_iff.2 hp).ne', if_neg (Nat.not_lt_of_le hfits)]

theorem wireEvents_validated (cap lenBase : Nat) :
    wireEvents .validated cap lenBase = packetEvents cap lenBase := by
  funext p
  rw [wireEvents, deliveryEvent_validated, packetEvents]

/-- Whatever its length, an encapsulated packet leaves the deframer between packets with a canonical
accumulator. -/
theorem feedBytes_wire_any (d : Delivery) (p : List Byte) (hwf : Memory.wf s.acc) (hclean : s.Clean) :
    ∃ m, Memory.wf m ∧ feedBytes d (wire p) s =
      .next { s with acc := m, rxEv := s.rxEv ++ wireEvents d s.cap s.lenBase p } := by
  by_cases hp : p = []
  · subst hp
    refine ⟨s.acc, hwf, ?_⟩
    rw [feedBytes_wire_nil d hclean, wireEvents_nil, List.append_nil]
  · rcases Nat.lt_or_ge s.cap p.length with hlong | hfits
    · refine ⟨_, State.wf_storeRun (p.take s.cap) hwf, ?_⟩
      rw [feedBytes_wire_tooLong d hclean hlong, wireEvents_tooLong d s.lenBase hlong]
    · refine ⟨_, State.wf_storeRun p hwf, ?_⟩
      rw [feedBytes_wire_packet d hwf hclean hp hfits, wireEvents_fits d s.lenBase hp hfits]

theorem feedBytes_flatMap_wire_any (d : Delivery) (ps : List (List Byte)) (hwf : Memory.wf s.acc)
    (hclean : s.Clean) :
    ∃ m, feedBytes d (ps.flatMap wire) s =
      .next { s with acc := m, rxEv := s.rxEv ++ ps.flatMap (wireEvents d s.cap s.lenBase) } := by
  induction ps generalizing s with
  | nil => exact ⟨s.acc, by rw [List.flatMap_nil, List.flatMap_nil, List.append_nil]; rfl⟩
  | cons p ps ih =>
    obtain ⟨m, hm, hpacket⟩ := feedBytes_wire_any d p hwf hclean
    obtain ⟨m', hrest⟩ := ih (s := { s with
      acc := m, rxEv := s.rxEv ++ wireEvents d s.cap s.lenBase p }) hm hclean
    refine ⟨m', ?_⟩
    rw [List.flatMap_cons, feedBytes_append, hpacket, thenDo_next, hrest, List.flatMap_cons,
      List.append_assoc]

end Sys2Proof.Machine
end

section
/-! SUPPORT. The statements about whole packets on the link: DECODE and INGEST of encapsulations, and a sealed
packet sent and received (R76, R93, R102, R120, R121). -/

namespace Sys2Proof.Proofs

open Sys2Proof.Machine Sys2Proof.Reference

/-- Settles O55: RESET leaves the state between packets, so FEED gives the packet its event, and the answer is the
packet of that event. -/
theorem decodeInvertsEncap : Obligations.DecodeInvertsEncap := by
  intro s p hwf
  obtain ⟨m, -, hfeed⟩ := feedBytes_wire_any (s := s.restart) .raw p (Memory.wf_below hwf _)
    ⟨rfl, rfl, rfl⟩
  have hdecode := exec_decode_of_feedBytes hfeed rfl
  refine ⟨_, hdecode, ⟨rfl, rfl, rfl⟩, fun hpos hfits => ?_, fun hp => ?_, fun hlong => ?_⟩
  · have hevents := wireEvents_fits .raw s.cfgLenBase (List.length_pos_iff.1 hpos) hfits
    simp [hevents, rawPackets, deliveryEvent]
  · subst hp
    simp [wireEvents_nil, rawPackets]
  · have hevents := wireEvents_tooLong .raw s.cfgLenBase hlong
    simp [hevents, rawPackets]

/-- Settles O57, by induction over the packets: each leaves the deframer between packets, the too long one after
its discard. -/
theorem ingestDeliversEveryPacketInOrder : Obligations.IngestDeliversEveryPacketInOrder := by
  intro s ps hwf hclean
  obtain ⟨m, hfeed⟩ := feedBytes_flatMap_wire_any .validated ps hwf hclean
  rw [wireEvents_validated] at hfeed
  exact ⟨_, hfeed, rfl⟩

/-- Settles O58: the chunks are one run, the run is one packet that fits, and VALIDATE accepts what SEAL made. -/
theorem sealedPacketCrossesTheLink : Obligations.SealedPacketCrossesTheLink := by
  intro s r hp chunks hwf hclean hlen hfield hfits
  have hlength : (withChecksum hp).length = hp.length + 2 := by
    rw [← sealBytes_eq_withChecksum, sealBytes_length]
  have hne : withChecksum hp ≠ [] := List.length_pos_iff.1 (by omega)
  have hok : deliveryEvent .validated r.lenBase (withChecksum hp) = .pkt (withChecksum hp) := by
    rw [deliveryEvent, ← sealBytes_eq_withChecksum, validatePkt_sealBytes hlen hfield]
  have hpacket := feedBytes_wire_packet .validated hwf hclean hne (hlength ▸ hfits)
  rw [hok] at hpacket
  refine ⟨_, wire (withChecksum hp), { r with
    acc := (r.storeRun (withChecksum hp)).acc, rxEv := r.rxEv ++ [.pkt (withChecksum hp)] },
    exec_encap _ s, rfl, fun hchunks => ⟨?_, rfl⟩⟩
  calc chunks.foldl (fun o c => thenDo o (feedBytes .validated c)) (.next r)
      = feedBytes .validated (wire (withChecksum hp)) r := by
        rw [foldl_feedBytes, thenDo_next, hchunks]
    _ = _ := hpacket

end Sys2Proof.Proofs
end

section
/-! SUPPORT. The encapsulated stream: the byte forms it is made of, its length, its escape pairs, and that the
packet can be read back from it (R70, R75). -/

namespace Sys2Proof.Machine

open Sys2Proof.Reference

/-- The transmit forms of a packet's bytes, one after the other, append its escaped bytes. -/
theorem foldl_exec_txForm (p : List Byte) (s : State) :
    p.foldl (fun r b => thenDo r (exec (txForm b))) (.next s) =
      .next (s.putTx (p.flatMap wireByte)) := by
  induction p generalizing s with
  | nil =>
    rw [List.foldl_nil, List.flatMap_nil, State.putTx, List.append_nil]
  | cons b p ih =>
    rw [List.foldl_cons, thenDo_next, exec_txForm, ih, State.putTx_putTx, List.flatMap_cons]

/-- A byte gains one stream byte when it is one of the two that are substituted. -/
theorem wireByte_length (b : Byte) :
    (wireByte b).length = 1 + if b = 0xC0 ∨ b = 0xDB then 1 else 0 := by
  rw [← escapeByte_eq_wireByte]
  rcases escapeByte_cases b with ⟨hb, h⟩ | ⟨hb, h⟩ | ⟨hd, he, h⟩ <;> rw [h]
  · rw [if_pos (.inl hb)]
    rfl
  · rw [if_pos (.inr hb)]
    rfl
  · have hplain : ¬(b = 0xC0 ∨ b = 0xDB) := not_or.2 ⟨hd, he⟩
    rw [if_neg hplain]
    rfl

theorem flatMap_wireByte_length (p : List Byte) :
    (p.flatMap wireByte).length = p.length + (p.filter fun b => b = 0xC0 ∨ b = 0xDB).length := by
  induction p with
  | nil => rfl
  | cons b p ih =>
    rw [List.flatMap_cons, List.length_append, ih, wireByte_length, List.length_cons]
    by_cases hb : b = 0xC0 ∨ b = 0xDB
    · rw [if_pos hb, List.filter_cons, if_pos (decide_eq_true hb), List.length_cons]
      omega
    · rw [if_neg hb, List.filter_cons, if_neg (by rwa [decide_eq_true_iff])]
      omega

theorem delim_not_mem_flatMap_wireByte (p : List Byte) : (0xC0 : Byte) ∉ p.flatMap wireByte := by
  intro h
  obtain ⟨b, -, hb⟩ := List.mem_flatMap.1 h
  exact delim_not_mem_escapeByte b hb

/-! ## Escape pairs -/

/-- Wherever an escape byte stands, one of the two substitutes follows it. -/
def PairsLegal (out : List Byte) : Prop :=
  ∀ before after, out = before ++ 0xDB :: after →
    ∃ x rest, after = x :: rest ∧ (x = 0xDC ∨ x = 0xDD)

theorem PairsLegal.nil : PairsLegal [] := by
  intro before after h
  simp at h

/-- A byte may stand in front if, being an escape byte, it has its substitute next. -/
theorem PairsLegal.cons {b : Byte} {out : List Byte} (hout : PairsLegal out)
    (hb : b = 0xDB → ∃ x rest, out = x :: rest ∧ (x = 0xDC ∨ x = 0xDD)) : PairsLegal (b :: out) := by
  intro before after h
  cases before with
  | nil =>
    obtain ⟨rfl, rfl⟩ := List.cons.inj h
    exact hb rfl
  | cons c before => exact hout before after (List.cons.inj h).2

theorem PairsLegal.cons_of_ne {b : Byte} {out : List Byte} (hout : PairsLegal out) (hb : b ≠ 0xDB) :
    PairsLegal (b :: out) :=
  hout.cons fun h => absurd h hb

theorem PairsLegal.wireByte_append {out : List Byte} (b : Byte) (hout : PairsLegal out) :
    PairsLegal (wireByte b ++ out) := by
  rw [← escapeByte_eq_wireByte]
  rcases escapeByte_cases b with ⟨-, h⟩ | ⟨-, h⟩ | ⟨-, he, h⟩ <;> rw [h]
  · exact (hout.cons_of_ne (by decide)).cons fun _ => ⟨_, _, rfl, .inl rfl⟩
  · exact (hout.cons_of_ne (by decide)).cons fun _ => ⟨_, _, rfl, .inr rfl⟩
  · exact hout.cons_of_ne he

theorem pairsLegal_wire (p : List Byte) : PairsLegal (wire p) := by
  have hbody : PairsLegal (p.flatMap wireByte ++ [0xC0]) := by
    induction p with
    | nil => exact PairsLegal.nil.cons_of_ne (by decide)
    | cons b p ih =>
      rw [List.flatMap_cons, List.append_assoc]
      exact ih.wireByte_append b
  exact hbody.cons_of_ne (by decide)

/-! ## The packet read back -/

/-- The bytes of the one packet delivered, or no byte where the empty packet causes no event. -/
theorem rawPackets_deliveredEvents_flatten (lenBase : Nat) (p : List Byte) :
    (rawPackets (deliveredEvents .raw lenBase [p])).flatten = p := by
  by_cases hp : p = []
  · simp [deliveredEvents, rawPackets, hp]
  · simp [deliveredEvents, deliveryEvent, rawPackets, hp]

/-- A deframer with room for both packets reads each back from its encapsulation (R93). -/
theorem wire_injective {p q : List Byte} (h : wire p = wire q) : p = q := by
  have hread (r : List Byte) (hr : r.length ≤ max p.length q.length) :=
    feedBytes_flatMap_wire (s := State.powerOn (max p.length q.length) 0) (ps := [r]) .raw
      Memory.wf_nil ⟨rfl, rfl, rfl⟩ (List.forall_mem_singleton.2 hr)
  obtain ⟨m, -, hp⟩ := hread p (le_max_left _ _)
  obtain ⟨m', -, hq⟩ := hread q (le_max_right _ _)
  rw [List.flatMap_singleton, h, ← List.flatMap_singleton wire q, hq] at hp
  have hevents := List.append_cancel_left (congrArg State.rxEv (Host.Outcome.next.inj hp))
  rw [← rawPackets_deliveredEvents_flatten _ p, ← hevents, rawPackets_deliveredEvents_flatten]

end Sys2Proof.Machine
end

section
/-! SUPPORT. The statements about ENCAP's run: its byte forms, its length, its pairs, and that packets differ on
the wire (R70, R75). -/

namespace Sys2Proof.Proofs

open Sys2Proof.Machine Sys2Proof.Reference

/-- Settles O39, by induction over the packet: each form appends the stream bytes of its packet byte. -/
theorem encapRunsItsByteForms : Obligations.EncapRunsItsByteForms := by
  intro s p
  rw [foldl_exec_txForm, thenDo_next, exec_encap, State.putTx_putTx, State.putTx_putTx]
  rfl

/-- Settles O40: the body is the escaped bytes of the packet. -/
theorem encapLengthAndDelimiters : Obligations.EncapLengthAndDelimiters := by
  intro s t p h
  rw [exec_encap] at h
  cases h
  exact ⟨p.flatMap wireByte, rfl, delim_not_mem_flatMap_wireByte p, flatMap_wireByte_length p⟩

/-- Settles O41, by induction over the packet from its end: a substitute is never an escape byte. -/
theorem encapEscapesAreLegalPairs : Obligations.EncapEscapesAreLegalPairs := by
  intro s t p h
  rw [exec_encap] at h
  cases h
  exact ⟨wire p, rfl, pairsLegal_wire p⟩

/-- Settles O42: the deframer reads the packet back from what ENCAP appends. -/
theorem encapIsInjective : Obligations.EncapIsInjective := by
  intro s p q h
  rw [exec_encap, exec_encap] at h
  have htx := congrArg State.txOut (Host.Outcome.next.inj h)
  exact wire_injective (List.append_cancel_left htx)

end Sys2Proof.Proofs
end

section
/-! SUPPORT. The laws of the checksum as laws of the plain byte sum, and two bytes of a packet exchanged (R101,
R158). -/

namespace Sys2Proof.Machine

open Sys2Proof.Reference

variable {p : List Byte} {j k lenBase : Nat}

/-- The checksum of a whole sequence, as a number. -/
theorem csum_length_toNat (buf : List Byte) : (csum buf buf.length).toNat = checksum buf := by
  rw [csum_toNat, List.take_length]

theorem byteSum_append (a b : List Byte) : byteSum (a ++ b) = byteSum a + byteSum b := by
  rw [byteSum, List.map_append, List.sum_append]
  rfl

theorem byteSum_perm {a b : List Byte} (h : a.Perm b) : byteSum a = byteSum b :=
  (h.map BitVec.toNat).sum_eq

theorem checksum_add_byteSum (buf : List Byte) : (byteSum buf + checksum buf) % 65536 = 0 := by
  rw [checksum]
  omega

theorem checksum_lt (buf : List Byte) : checksum buf < 65536 := Nat.mod_lt _ (by decide)

/-- Exchanging two bytes adds to the sum what it takes away; with `j = k` it does nothing. -/
theorem byteSum_exchange (hj : j < p.length) (hk : k < p.length) :
    byteSum ((p.set j (pktByte p k)).set k (pktByte p j)) = byteSum p := by
  have hset := byteSum_set (x := pktByte p k) hj
  have hset' := byteSum_set (p := p.set j (pktByte p k)) (x := pktByte p j)
    (by rwa [List.length_set] : k < (p.set j (pktByte p k)).length)
  have hread : byteAt (p.set j (pktByte p k)) k = (pktByte p k).toNat := by
    by_cases hjk : j = k
    · subst hjk
      exact congrArg BitVec.toNat (pktByte_set_same hj)
    · exact congrArg BitVec.toNat (pktByte_set_of_ne hjk)
  have hold : byteAt p j = (pktByte p j).toNat := rfl
  omega

theorem csum_exchange {len : Nat} (hj : j < len) (hk : k < len) (hlen : len ≤ p.length) :
    csum ((p.set j (pktByte p k)).set k (pktByte p j)) len = csum p len := by
  have hbyte {i : Nat} (hi : i < len) : pktByte p i = pktByte (p.take len) i := by
    simp [pktByte, hi]
  have htake : (p.take len).length = len := List.length_take_of_le hlen
  rw [csum_eq_ofNat_checksum, csum_eq_ofNat_checksum, List.take_set, List.take_set, hbyte hj, hbyte hk]
  simp only [checksum, byteSum_exchange (htake.symm ▸ hj) (htake.symm ▸ hk)]

/-- A 16-bit field neither of whose bytes is exchanged reads as before. -/
theorem le16_exchange {x y : Byte} {i i' : Nat} (hj : j ≠ i ∧ j ≠ i') (hk : k ≠ i ∧ k ≠ i') :
    le16 (pktByte ((p.set j x).set k y) i) (pktByte ((p.set j x).set k y) i') =
      le16 (pktByte p i) (pktByte p i') :=
  (le16_set_of_ne hk.1 hk.2).trans (le16_set_of_ne hj.1 hj.2)

theorem validatePkt_exchange (hok : validatePkt lenBase p = .ok) (hj : j < p.length - 2)
    (hk : k < p.length - 2) (hjfield : j ≠ 3 ∧ j ≠ 4) (hkfield : k ≠ 3 ∧ k ≠ 4) :
    validatePkt lenBase ((p.set j (pktByte p k)).set k (pktByte p j)) = .ok := by
  obtain ⟨hmin, hlen, hsum⟩ := (validatePkt_ok_iff lenBase p).1 hok
  have hlength : ((p.set j (pktByte p k)).set k (pktByte p j)).length = p.length := by
    rw [List.length_set, List.length_set]
  have hdeclared : declared ((p.set j (pktByte p k)).set k (pktByte p j)) = declared p :=
    le16_exchange hjfield hkfield
  have hstored : stored ((p.set j (pktByte p k)).set k (pktByte p j)) = stored p := by
    rw [stored, hlength]
    exact le16_exchange (by omega) (by omega)
  rw [validatePkt_ok_iff, hlength, hdeclared, hstored]
  exact ⟨hmin, hlen, (congrArg BitVec.toNat (csum_exchange hj hk (Nat.sub_le _ _))).trans hsum⟩

end Sys2Proof.Machine
end

section
/-! SUPPORT. The statements about the laws of CSUM, and VALIDATE's verdict and what it misses (R101, R103,
R158). -/

namespace Sys2Proof.Proofs

open Sys2Proof.Machine Sys2Proof.Reference

/-- Settles O44: two 16-bit values that complete the same sum differ by a multiple of 65536. -/
theorem csumIsTheOnlyCompletion : Obligations.CsumIsTheOnlyCompletion := by
  intro buf c
  have hsum := checksum_add_byteSum buf
  constructor
  · intro h
    have hc := c.isLt
    have hlt := checksum_lt buf
    refine BitVec.eq_of_toNat_eq ?_
    rw [csum_length_toNat]
    omega
  · rintro rfl
    rwa [csum_length_toNat]

/-- Settles O45: the plain sum does not depend on the order. -/
theorem csumIgnoresOrder : Obligations.CsumIgnoresOrder := by
  intro a b h
  refine BitVec.eq_of_toNat_eq ?_
  rw [csum_length_toNat, csum_length_toNat, checksum, byteSum_perm h]
  rfl

/-- Settles O46: negation modulo 65536 is additive, as the plain sum is. -/
theorem csumIsAdditive : Obligations.CsumIsAdditive := by
  intro a b
  refine BitVec.eq_of_toNat_eq ?_
  rw [BitVec.toNat_add, csum_length_toNat, csum_length_toNat, csum_length_toNat]
  simp only [checksum, byteSum_append]
  omega

/-- Settles O47: one byte set to another value moves the plain sum by less than 256. -/
theorem csumSeesOneChangedByte : Obligations.CsumSeesOneChangedByte := by
  intro a b x y hxy h
  have hk : a.length < (a ++ x :: b).length := by simp
  have hbyte : y ≠ pktByte (a ++ x :: b) a.length := by simpa [pktByte] using hxy.symm
  have hset : (a ++ x :: b).set a.length y = a ++ y :: b := by simp
  refine checksum_set_ne hk hbyte ?_
  rw [hset, ← csum_length_toNat, ← csum_length_toNat, h]

/-- Settles O49: the model's verdict is the reference's. -/
theorem validateChecksLengthThenChecksum : Obligations.ValidateChecksLengthThenChecksum := by
  intro s p
  rw [exec_validate, validatePkt_eq_verdict]
  rfl

/-- Settles O51: the exchange leaves the sum of the region and both 16-bit fields as they were. -/
theorem swappedBytesAreNotDetected : Obligations.SwappedBytesAreNotDetected :=
  fun _ _ _ _ hok hj hk hj3 hj4 hk3 hk4 => validatePkt_exchange hok hj hk ⟨hj3, hj4⟩ ⟨hk3, hk4⟩

end Sys2Proof.Proofs
end

section
/-! SUPPORT. The accumulator cells that the deframer's operations leave alone: an append stores at the cursor if
at all, a chunk at the cells that `storedCells` computes (R37). -/

namespace Sys2Proof.Machine

open Sys2Proof.Reference

variable {s t u : State} {d : Delivery} {v b : Byte} {cells cells' : List Nat}

theorem cellsKept_of_acc_eq (h : t.acc = s.acc) : CellsKept cells s t := by
  intro a _
  rw [State.accRead, State.accRead, h]

theorem cellsKept_trans (hsu : CellsKept cells s u) (hut : CellsKept cells' u t) :
    CellsKept (cells ++ cells') s t := by
  intro a ha
  obtain ⟨h, h'⟩ := not_or.1 (mt List.mem_append.2 ha)
  exact (hut a h').trans (hsu a h)

theorem storeNext_cellsKept (s : State) (v : Byte) : CellsKept [s.cur] s (s.storeNext v) :=
  fun _ ha => Memory.read_write_of_ne s.acc v (fun h => ha (List.mem_singleton.2 h))

theorem delimiter_keeps_acc (h : delimiter d s = .next t) : t.acc = s.acc := by
  rcases delimiter_cases h with ⟨-, rfl⟩ | ⟨-, -, rfl⟩ | ⟨-, -, -, rfl⟩
  · rfl
  · rfl
  · rfl

/-- The cell an append stores to, if any. -/
def appendCells (s : State) : List Nat := if s.ovf = false ∧ s.cur < s.cap then [s.cur] else []

theorem appendByte_cellsKept (h : appendByte v s = .next t) : CellsKept (appendCells s) s t := by
  rcases appendByte_cases h with ⟨-, rfl⟩ | ⟨-, -, rfl⟩ | ⟨hovf, hroom, rfl⟩
  · exact cellsKept_of_acc_eq rfl
  · exact cellsKept_of_acc_eq rfl
  · rw [appendCells, if_pos ⟨hovf, hroom⟩]
    exact storeNext_cellsKept s v

/-! ## Chunks -/

theorem storedCells_esc (cap cur : Nat) (ovf : Bool) (c : List Byte) :
    storedCells cap false ovf cur (Config.esc :: c) = storedCells cap true ovf cur c := by
  rw [storedCells]
  exact if_pos ⟨rfl, rfl⟩

theorem storedCells_delim (cap cur : Nat) (ovf : Bool) (c : List Byte) :
    storedCells cap false ovf cur (Config.delim :: c) = storedCells cap false false 0 c := by
  rw [storedCells, if_neg fun h => absurd h.2 (by decide)]
  exact if_pos ⟨rfl, rfl⟩

/-- A byte that is appended: its cell, then the cells of the rest from the state after it. -/
theorem storedCells_append {c : List Byte} (h : appendByte v (s.setEsc false) = .next t)
    (hb : s.esc = false → b ≠ Config.esc ∧ b ≠ Config.delim) :
    storedCells s.cap s.esc s.ovf s.cur (b :: c) =
      appendCells s ++ storedCells t.cap t.esc t.ovf t.cur c := by
  rw [storedCells, if_neg fun hesc => (hb hesc.1).1 hesc.2, if_neg fun hdelim => (hb hdelim.1).2 hdelim.2]
  rcases appendByte_cases h with ⟨hovf, rfl⟩ | ⟨hovf, hfull, rfl⟩ | ⟨hovf, hroom, rfl⟩
  · have hset : s.ovf = true := hovf
    simp [appendCells, hset]
  · have hnone : ¬(s.ovf = false ∧ s.cur < s.cap) := fun hlt => absurd hfull hlt.2.ne
    rw [appendCells, if_neg hnone, if_neg hnone]
    rfl
  · have hclear : s.ovf = false := hovf
    rw [appendCells, if_pos ⟨hovf, hroom⟩, if_pos ⟨hovf, hroom⟩]
    simp [hclear]

/-- One byte of a chunk: what it stores, and the cells of the rest from the state after it. -/
theorem stepByte_cellsKept (h : stepByte d b s = .next t) (c : List Byte) :
    ∃ cells, CellsKept cells s t ∧ storedCells s.cap s.esc s.ovf s.cur (b :: c) =
      cells ++ storedCells t.cap t.esc t.ovf t.cur c := by
  rcases stepByte_forms d b s with ⟨he, hf⟩ | ⟨he, rfl, hf⟩ | ⟨he, rfl, hf⟩ | ⟨he, hb, hb', hf⟩ <;>
    rw [hf] at h
  · exact ⟨_, appendByte_cellsKept (s := s.setEsc false) h,
      storedCells_append h fun hclear => absurd (hclear.symm.trans he) Bool.false_ne_true⟩
  · cases h
    exact ⟨[], cellsKept_of_acc_eq rfl, he ▸ storedCells_esc s.cap s.cur s.ovf c⟩
  · obtain ⟨hcur, hovf⟩ := delimiter_resynchronises h
    refine ⟨[], cellsKept_of_acc_eq (delimiter_keeps_acc h), ?_⟩
    rw [he, storedCells_delim, hcur, hovf, (delimiter_keeps_config h).1, delimiter_keeps_esc h, he]
    rfl
  · rw [← State.setEsc_eq_self he] at h
    exact ⟨_, appendByte_cellsKept (s := s.setEsc false) h, storedCells_append h fun _ => ⟨hb, hb'⟩⟩

theorem feedBytes_cellsKept {c : List Byte} (h : feedBytes d c s = .next t) :
    CellsKept (storedCells s.cap s.esc s.ovf s.cur c) s t := by
  induction c generalizing s with
  | nil =>
    cases h
    exact cellsKept_of_acc_eq rfl
  | cons b c ih =>
    obtain ⟨u, hstep, hrest⟩ := thenDo_eq_next h
    obtain ⟨cells, hkept, hcells⟩ := stepByte_cellsKept hstep c
    rw [hcells]
    exact cellsKept_trans hkept (ih hrest)

end Sys2Proof.Machine
end

section
/-! SUPPORT. DECODE as RESET, FEED with validation bypassed, and an answer: its frame, the events it can emit, and
its result as a function of the bytes alone (R121). -/

namespace Sys2Proof.Machine

open Sys2Proof.Reference

variable {s t : State} {d : Delivery} {v b : Byte} {f : Deframed} {before : List Event}

theorem feedBytes_restart_eq {c : List Byte} (h : feedBytes d c s.restart = .next t) :
    t = { s with acc := t.acc, cur := t.cur, esc := t.esc, ovf := t.ovf, cap := s.cfgCap,
                 lenBase := s.cfgLenBase, rxEv := t.rxEv } :=
  feedBytes_receiverFrame h

theorem rawPackets_eq_filterMap (evs : List Event) : rawPackets evs = evs.filterMap rawOf := by
  induction evs with
  | nil => rfl
  | cons e evs ih =>
    cases e with
    | raw p => exact congrArg (p :: ·) ih
    | pkt | err => exact ih

/-- From `s` to `t`, `RX_EV` is extended by `RAW` events and `ERR(1)` only. -/
def EmitsRaw (s t : State) : Prop :=
  ∃ evs, t.rxEv = s.rxEv ++ evs ∧ ∀ e ∈ evs, (∃ p, e = .raw p) ∨ e = .err .framingOverflow

theorem EmitsRaw.snoc {u : State} {e : Event} (hu : EmitsRaw s u) (ht : t.rxEv = u.rxEv ++ [e])
    (he : (∃ p, e = .raw p) ∨ e = .err .framingOverflow) : EmitsRaw s t := by
  obtain ⟨evs, hrxEv, hevs⟩ := hu
  refine ⟨evs ++ [e], by rw [ht, hrxEv, List.append_assoc], fun x hx => ?_⟩
  rcases List.mem_append.1 hx with hold | hnew
  · exact hevs x hold
  · exact List.mem_singleton.1 hnew ▸ he

theorem emitsRaw_keptByDeframer (s : State) : KeptByDeframer .raw (EmitsRaw s) where
  setEsc _ _ hu := hu
  overflow u hu _ := hu.snoc u.overflow_rxEv (.inr rfl)
  storeNext _ _ hu _ _ := hu
  resync _ hu := hu
  handOn u hu _ _ _ := hu.snoc (u.handOn_rxEv .raw) (.inl ⟨_, rfl⟩)

/-! ## The deframer over byte lists -/

/-- The state `u` is the deframer `f` over byte lists, with the events of `f` after those of `before`. -/
structure Tracks (before : List Event) (u : State) (f : Deframed) : Prop where
  wf : Memory.wf u.acc
  esc : u.esc = f.esc
  ovf : u.ovf = f.ovf
  held : contents u = f.held
  events : u.rxEv = before ++ f.events

@[simp] theorem contents_length (s : State) : (contents s).length = s.cur :=
  State.accCopy_length s s.cur

/-- What the list deframer does with a byte that is neither an escape byte nor a delimiter. -/
def deframeAppend (cap : Nat) (v : Byte) (f : Deframed) : Deframed :=
  if f.ovf then { f with esc := false }
  else if f.held.length = cap then
    { f with esc := false, ovf := true, events := f.events ++ [.err .framingOverflow] }
  else { f with esc := false, held := f.held ++ [v] }

theorem deframeByte_esc (cap : Nat) (hesc : f.esc = false) :
    deframeByte cap f Config.esc = { f with esc := true } :=
  if_pos ⟨hesc, rfl⟩

theorem deframeByte_delim (cap : Nat) (hesc : f.esc = false) :
    deframeByte cap f Config.delim =
      if f.ovf then { f with ovf := false, held := [] }
      else if f.held = [] then f
      else { f with held := [], events := f.events ++ [.raw f.held] } := by
  rw [deframeByte, if_neg fun h => absurd h.2 (by decide)]
  exact if_pos ⟨hesc, rfl⟩

theorem deframeByte_escaped (cap : Nat) (b : Byte) (hesc : f.esc = true) :
    deframeByte cap f b = deframeAppend cap (unescaped b) f := by
  simp [deframeByte, deframeAppend, hesc]

theorem deframeByte_data (cap : Nat) (hesc : f.esc = false) (he : b ≠ Config.esc)
    (hd : b ≠ Config.delim) : deframeByte cap f b = deframeAppend cap b f := by
  rw [deframeByte, if_neg fun h => he h.2, if_neg fun h => hd h.2, hesc]
  rfl

theorem Tracks.appendByte (hf : Tracks before s f) (h : appendByte v (s.setEsc false) = .next t) :
    Tracks before t (deframeAppend s.cap v f) := by
  have hlength : f.held.length = s.cur := by rw [← hf.held, contents_length]
  rcases appendByte_cases h with ⟨hovf, rfl⟩ | ⟨hovf, hfull, rfl⟩ | ⟨hovf, hroom, rfl⟩
  · have hset : f.ovf = true := hf.ovf.symm.trans hovf
    rw [deframeAppend, if_pos hset]
    exact ⟨hf.wf, rfl, hf.ovf, hf.held, hf.events⟩
  · have hclear : ¬f.ovf = true := by simp [← hf.ovf, show s.ovf = false from hovf]
    rw [deframeAppend, if_neg hclear, if_pos (show f.held.length = s.cap from hlength.trans hfull)]
    exact ⟨hf.wf, rfl, rfl, hf.held, by simp [hf.events]⟩
  · have hclear : ¬f.ovf = true := by simp [← hf.ovf, show s.ovf = false from hovf]
    have hlt : f.held.length ≠ s.cap := hlength ▸ hroom.ne
    rw [deframeAppend, if_neg hclear, if_neg hlt]
    refine ⟨Memory.wf_write hf.wf s.cur v, rfl, hf.ovf, ?_, hf.events⟩
    rw [contents_storeNext (s := s.setEsc false) hf.wf]
    exact congrArg (· ++ [v]) hf.held

theorem Tracks.delimiter (hf : Tracks before s f) (hesc : s.esc = false)
    (h : delimiter .raw s = .next t) : Tracks before t (deframeByte s.cap f Config.delim) := by
  have hlength : f.held.length = s.cur := by rw [← hf.held, contents_length]
  rw [deframeByte_delim s.cap (hf.esc.symm.trans hesc), ← hf.ovf]
  rcases delimiter_cases h with ⟨hovf, rfl⟩ | ⟨hovf, hzero, rfl⟩ | ⟨hovf, hpos, -, rfl⟩ <;>
    rw [hovf]
  · exact ⟨hf.wf, hf.esc, rfl, contents_of_cur_zero rfl, hf.events⟩
  · have hnil : f.held = [] := List.eq_nil_of_length_eq_zero (hlength.trans hzero)
    rw [if_neg Bool.false_ne_true, if_pos hnil]
    exact hf
  · have hcons : f.held ≠ [] := List.length_pos_iff.1 (hlength ▸ hpos)
    rw [if_neg Bool.false_ne_true, if_neg hcons]
    refine ⟨hf.wf, hf.esc, hovf, contents_of_cur_zero rfl, ?_⟩
    rw [State.handOn_rxEv, State.accCopy_cur, hf.held, hf.events, List.append_assoc]
    rfl

/-- Both deframers read a byte in the same way, by `esc` and the byte. -/
theorem Tracks.stepByte (hf : Tracks before s f) (h : stepByte .raw b s = .next t) :
    Tracks before t (deframeByte s.cap f b) := by
  rcases stepByte_forms .raw b s with ⟨he, hform⟩ | ⟨he, rfl, hform⟩ | ⟨he, rfl, hform⟩ |
    ⟨he, hb, hb', hform⟩ <;> rw [hform] at h
  · rw [deframeByte_escaped s.cap b (hf.esc.symm.trans he)]
    exact hf.appendByte h
  · cases h
    rw [deframeByte_esc s.cap (hf.esc.symm.trans he)]
    exact ⟨hf.wf, rfl, hf.ovf, hf.held, hf.events⟩
  · exact hf.delimiter he h
  · rw [deframeByte_data s.cap (hf.esc.symm.trans he) hb hb']
    rw [← State.setEsc_eq_self he] at h
    exact hf.appendByte h

theorem Tracks.feedBytes {c : List Byte} (hf : Tracks before s f) (h : feedBytes .raw c s = .next t) :
    Tracks before t (c.foldl (deframeByte s.cap) f) := by
  induction c generalizing s f with
  | nil =>
    cases h
    exact hf
  | cons b c ih =>
    obtain ⟨u, hstep, hrest⟩ := thenDo_eq_next h
    rw [List.foldl_cons, ← (stepByte_keeps_config hstep).1]
    exact ih ((stepByte_keeps_config hstep).1 ▸ hf.stepByte hstep) hrest

/-- RESET puts both deframers at the start (R25). -/
theorem feedBytes_restart_tracks {c : List Byte} (hwf : Memory.wf s.acc)
    (h : feedBytes .raw c s.restart = .next t) : Tracks s.rxEv t (deframe s.cfgCap c) :=
  Tracks.feedBytes (f := ⟨false, false, [], []⟩)
    ⟨Memory.wf_below hwf _, rfl, rfl, contents_of_cur_zero rfl, (List.append_nil _).symm⟩ h

end Sys2Proof.Machine
end

section
/-! SUPPORT. What every operation does to the outputs, the waiting input, the configuration and the fields it does
not write (R15, R16, R18, R19, R20, R42, R123). -/

namespace Sys2Proof.Machine

open Sys2Proof.Reference

variable {s t u : State} {d : Delivery} {v : Byte}

/-- From `s` to `t`, `TX_OUT` and the answers are extended at the end only, and the waiting input is the same. -/
structure OutputsGrow (s t : State) : Prop where
  txOut : ∃ out, t.txOut = s.txOut ++ out
  answers : ∃ ans, t.answers = s.answers ++ ans
  input : t.input = s.input

theorem OutputsGrow.of_eq (htx : t.txOut = s.txOut) (hanswers : t.answers = s.answers)
    (hinput : t.input = s.input) : OutputsGrow s t :=
  ⟨⟨[], by rw [htx, List.append_nil]⟩, ⟨[], by rw [hanswers, List.append_nil]⟩, hinput⟩

theorem ReceiverFrame.outputsGrow (h : ReceiverFrame s t) : OutputsGrow s t :=
  .of_eq (congrArg State.txOut h :) (congrArg State.answers h :) (congrArg State.input h :)

theorem outputsGrow_putTx (s : State) (out : List Byte) : OutputsGrow s (s.putTx out) :=
  ⟨⟨out, rfl⟩, ⟨[], (List.append_nil _).symm⟩, rfl⟩

theorem OutputsGrow.answer (h : OutputsGrow s t) (a : Answer) : OutputsGrow s (t.answer a) := by
  obtain ⟨htx, ⟨ans, hanswers⟩, hinput⟩ := h
  exact ⟨htx, ⟨ans ++ [a], by rw [State.answer_answers, hanswers, List.append_assoc]⟩, hinput⟩

theorem outputsGrow_answer (s : State) (a : Answer) : OutputsGrow s (s.answer a) :=
  (OutputsGrow.of_eq rfl rfl rfl : OutputsGrow s s).answer a

theorem exec_outputsGrow (i : Instr) (h : exec i s = .next t) : OutputsGrow s t := by
  have kept := receiverFrame_keptByDeframer
  have start := ReceiverFrame.refl s
  cases i with
  | rxEscD | rxEscE | rxEscV => exact ((kept .validated s).appendUnescaped start h).outputsGrow
  | rxData | append => exact ((kept .validated s).appendByte start h).outputsGrow
  | rxDelim => exact ((kept .validated s).delimiter start h).outputsGrow
  | step => exact ((kept .validated s).stepByte start h).outputsGrow
  | feed | ingest => exact (feedBytes_receiverFrame h).outputsGrow
  | emit =>
    obtain ⟨-, -, -, rfl⟩ := execEmit_cases h
    exact .of_eq rfl rfl rfl
  | decode =>
    obtain ⟨u, hfeed, rfl⟩ := execDecode_cases h
    obtain ⟨htx, hanswers, hinput⟩ := (feedBytes_receiverFrame hfeed).outputsGrow
    exact (OutputsGrow.mk (s := s) htx hanswers hinput).answer _
  | csum =>
    obtain ⟨-, rfl⟩ := execCsum_cases h
    exact outputsGrow_answer s _
  | sealPkt | validate =>
    cases h
    exact outputsGrow_answer s _
  | config =>
    obtain ⟨-, rfl⟩ := execConfig_cases h
    exact .of_eq rfl rfl rfl
  | txSubD | txSubE | txLit | encap =>
    cases h
    exact outputsGrow_putTx s _
  | rxEsc | reset =>
    cases h
    exact .of_eq rfl rfl rfl

/-! ## Frames of the single forms -/

theorem appendByte_frame (h : appendByte v s = .next t) :
    t = { s with acc := t.acc, cur := t.cur, ovf := t.ovf, rxEv := t.rxEv } := by
  rcases appendByte_cases h with ⟨-, rfl⟩ | ⟨-, -, rfl⟩ | ⟨-, -, rfl⟩
  · rfl
  · rfl
  · rfl

theorem delimiter_frame (h : delimiter d s = .next t) :
    t = { s with cur := t.cur, ovf := t.ovf, rxEv := t.rxEv } := by
  rcases delimiter_cases h with ⟨-, rfl⟩ | ⟨-, -, rfl⟩ | ⟨-, -, -, rfl⟩
  · rfl
  · rfl
  · rfl

theorem appendUnescaped_frame (h : appendUnescaped v s = .next t) : ReceiverFrame s t :=
  (receiverFrame_keptByDeframer .validated s).appendUnescaped (.refl s) h

/-- STEP is FEED of one byte. -/
theorem feedBytes_singleton (d : Delivery) (b : Byte) (s : State) :
    feedBytes d [b] s = stepByte d b s :=
  thenDo_pure _

theorem execDecode_frame {c : List Byte} (h : execDecode c s = .next t) :
    t = { s with acc := t.acc, cur := t.cur, esc := t.esc, ovf := t.ovf, rxEv := t.rxEv,
                 cap := s.cfgCap, lenBase := s.cfgLenBase, answers := t.answers } ∧
    ∀ a, a < s.cfgCap → a ∉ storedCells s.cfgCap false false 0 c → t.accRead a = s.accRead a := by
  obtain ⟨u, hfeed, rfl⟩ := execDecode_cases h
  refine ⟨?_, fun a ha hcells => ?_⟩
  · rw [feedBytes_restart_eq hfeed]
    rfl
  · exact (feedBytes_cellsKept hfeed a hcells).trans (restart_accRead s ha)

end Sys2Proof.Machine
end

section
/-! SUPPORT. The statements about every operation: its frame, the outputs, the configuration, and DECODE (R15,
R18, R19, R20, R37, R42, R121, R123). -/

namespace Sys2Proof.Proofs

open Sys2Proof.Machine Sys2Proof.Reference

/-- Settles O35: the deframer's operations write neither `TX_OUT` nor the answers nor the input, and the others
append to one of the outputs or write neither. -/
theorem outputsOnlyGrow : Obligations.OutputsOnlyGrow := by
  intro i s t h
  obtain ⟨htx, hanswers, hinput⟩ := exec_outputsGrow i h
  obtain ⟨evs, hrxEv, -⟩ := exec_emits i h
  exact ⟨htx, ⟨evs, hrxEv⟩, hanswers, hinput⟩

/-- Settles O53: CONFIG writes `CFG` only, RESET samples it, and the deframer's operations write no parameter. -/
theorem configurationIsSampledAtReset : Obligations.ConfigurationIsSampledAtReset := by
  refine ⟨fun s _ lenBase hcap => exec_config_of_pos hcap lenBase s,
    fun s lenBase => exec_config_zero lenBase s, fun i s t h => ?_⟩
  cases i with
  | rxEscD | rxEscE | rxEscV => exact appendByte_keeps_config (s := s.setEsc false) h
  | rxData | append => exact appendByte_keeps_config h
  | rxDelim => exact delimiter_keeps_config h
  | step => exact stepByte_keeps_config h
  | feed | ingest => exact feedBytes_keeps_config h
  | emit =>
    obtain ⟨-, -, -, rfl⟩ := execEmit_cases h
    exact ⟨rfl, rfl⟩
  | decode =>
    obtain ⟨u, hfeed, rfl⟩ := execDecode_cases h
    exact feedBytes_keeps_config hfeed
  | csum =>
    obtain ⟨-, rfl⟩ := execCsum_cases h
    exact ⟨rfl, rfl⟩
  | config =>
    obtain ⟨-, rfl⟩ := execConfig_cases h
    exact ⟨rfl, rfl⟩
  | rxEsc | txSubD | txSubE | txLit | encap | sealPkt | validate | reset =>
    cases h
    exact ⟨rfl, rfl⟩

/-- Settles O54: the three parts of DECODE in turn, the events and `acc[0..cur)` by induction over the bytes
beside the deframer over byte lists. -/
theorem decodeAnswersTheRawPackets : Obligations.DecodeAnswersTheRawPackets := by
  intro s bytes
  have hstart : s.restart.cur ≤ s.restart.cap := Nat.zero_le _
  obtain ⟨t, hfeed⟩ := feedBytes_completes .raw bytes hstart
  obtain ⟨evs, hrxEv, hraw⟩ : EmitsRaw s.restart t :=
    (emitsRaw_keptByDeframer s.restart).feedBytes ⟨[], (List.append_nil _).symm, by simp⟩ hfeed
  have hframe := feedBytes_restart_eq hfeed
  have hanswers : t.answers = s.answers := (congrArg State.answers hframe :)
  refine ⟨s.restart, t, evs, rfl, hfeed, hrxEv, ?_, hframe, hraw, feedBytes_esc_after hfeed,
    (cursorBound_keptByDeframer .raw).feedBytes hstart hfeed, fun hwf => ?_⟩
  · rw [exec_decode_of_feedBytes hfeed hrxEv, rawPackets_eq_filterMap, State.answer, hanswers]
  · have htracks := feedBytes_restart_tracks hwf hfeed
    exact ⟨List.append_cancel_left (hrxEv.symm.trans htracks.events), htracks.held, htracks.esc,
      htracks.ovf⟩

/-- Settles O59, operation by operation; the cells of a chunk by induction over its bytes. -/
theorem otherUnitsLeaveTheReceiver : Obligations.OtherUnitsLeaveTheReceiver := by
  intro i s t h
  cases i with
  | rxEscD | rxEscE | rxEscV =>
    exact ⟨appendUnescaped_frame h, appendByte_cellsKept (s := s.setEsc false) h⟩
  | rxData | append => exact ⟨appendByte_frame h, appendByte_cellsKept h⟩
  | rxDelim => exact delimiter_frame h
  | step b =>
    have hfeed : feedBytes .validated [b] s = .next t := (feedBytes_singleton .validated b s).trans h
    exact ⟨feedBytes_receiverFrame hfeed, feedBytes_cellsKept hfeed⟩
  | feed | ingest => exact ⟨feedBytes_receiverFrame h, feedBytes_cellsKept h⟩
  | emit =>
    obtain ⟨-, -, -, rfl⟩ := execEmit_cases h
    rfl
  | decode => exact execDecode_frame h
  | csum =>
    obtain ⟨-, rfl⟩ := execCsum_cases h
    rfl
  | config =>
    obtain ⟨-, rfl⟩ := execConfig_cases h
    rfl
  | reset =>
    cases h
    exact ⟨rfl, fun _ ha => restart_accRead s ha⟩
  | rxEsc | txSubD | txSubE | txLit | encap | sealPkt | validate =>
    cases h
    rfl

end Sys2Proof.Proofs
end
